-- ==== Sys2Proof/Word.lean ====
section
/-! DEFINITION. Sys2Proof/Word.lean: the value types of the Keccak-256 core: bytes, bus words, lanes, the 5×5 lane
matrix (R13), the two instruction formats (R100), command words' outcomes (R104), bus transactions (R71) and
what the block answers them with. -/
namespace Sys2Proof

/-- One byte of the input stream, of the buffer or of the digest. -/
abbrev Byte := BitVec 8

/-- One 32-bit word of the host bus (R9, R73). -/
abbrev Word := BitVec 32

/-- "Lane: an unsigned 64-bit integer" (R8, R16). -/
abbrev Lane := BitVec 64

/-- A 5×5 matrix of lanes, written `A[x][y]` with x the column and y the row (R13).
An index of type `Fin 5` adds and subtracts mod 5, as R12 and R13 ask. -/
abbrev LaneMatrix := Vector (Vector Lane 5) 5

/-- The matrix whose lane at column x, row y is `f x y`. -/
def LaneMatrix.ofFn (f : Fin 5 → Fin 5 → Lane) : LaneMatrix :=
  Vector.ofFn fun x => Vector.ofFn fun y => f x y

/-- The all-zero matrix (R40, R193). -/
def LaneMatrix.zero : LaneMatrix := LaneMatrix.ofFn fun _ _ => 0

/-- The causes of a command error (R281); their codes are given by `ErrorCode.code`. -/
inductive ErrorCode where
  /-- OP is reserved (R281 code 1). -/
  | illegalOp
  /-- A RSVD bit is set, or LEN is not 0 for a command without a length (R281 code 2). -/
  | reservedBits
  /-- ABSORB with LEN in 9..15 (R281 code 3). -/
  | badLen
  deriving DecidableEq, Repr

/-- What a legal command word stands for (R101, R104). -/
inductive Command where
  | nop
  | init
  /-- ABSORB with its 4-bit LEN field (R102). -/
  | absorb (len : BitVec 4)
  | digest
  deriving DecidableEq, Repr

/-- One bus transaction as the host presents it: the ports we, addr and wdata of R71.
A read carries wdata too; the block does not look at it (assumption 11). -/
structure Transaction where
  we : Bool
  addr : BitVec 6
  wdata : Word
  deriving DecidableEq, Repr

/-- An instruction-like unit in one of the two formats of R100. -/
inductive Encoding where
  /-- Format CMD: a command word, the wdata of an accepted write to offset 0x08. -/
  | cmd (c : Word)
  /-- Format BUS: one bus transaction. -/
  | bus (t : Transaction)
  deriving DecidableEq, Repr

/-- Which of the four groups of illegal access keys a transaction falls in (R106, R288). -/
inductive BusErrorCause where
  | misaligned
  | readOfCmd
  | reservedOffset
  | writeToReadOnly
  deriving DecidableEq, Repr

/-- Why an encoding stands for no instruction: the error the block raises for it, by name (R280). -/
inductive Reject where
  /-- BusError(off) (R288). -/
  | busError (off : BitVec 6) (cause : BusErrorCause)
  /-- CmdError(code) (R281). -/
  | cmdError (code : ErrorCode)
  deriving DecidableEq, Repr

/-- What the block answered at the acceptance of one transaction (R71, R72): the offset it was accepted at,
rdata where it was a read, and the port err. -/
inductive Response where
  | read (off : BitVec 6) (rdata : Word) (err : Bool)
  | write (off : BitVec 6) (err : Bool)
  deriving DecidableEq, Repr

end Sys2Proof
end

