-- ==== Sys2Proof/Syntax.lean ====
section
/-! DEFINITION. Sys2Proof/Syntax.lean: the instructions, one constructor per row of spec/opcode_table.json: the four
command words (R101) and the sixteen legal bus accesses (R106). -/
namespace Sys2Proof

/-- An instruction of the block. The first four are command words, written to CMD; the others are bus accesses. -/
inductive Instr where
  /-- NOP (R231). -/
  | nop
  /-- INIT (R232). -/
  | init
  /-- ABSORB n, with its 4-bit LEN field (R102, R233). -/
  | absorb (len : BitVec 4)
  /-- DIGEST (R234). -/
  | digest
  /-- Read ID (R238). -/
  | rdId
  /-- Read PARAM (R239). -/
  | rdParam
  /-- Read STATUS (R240). -/
  | rdStatus
  /-- Read DIN_LO (R241). -/
  | rdDinLo
  /-- Read DIN_HI (R242). -/
  | rdDinHi
  /-- Read DOUT0 (R243). -/
  | rdDout0
  /-- Read DOUT1 (R243). -/
  | rdDout1
  /-- Read DOUT2 (R243). -/
  | rdDout2
  /-- Read DOUT3 (R243). -/
  | rdDout3
  /-- Read DOUT4 (R243). -/
  | rdDout4
  /-- Read DOUT5 (R243). -/
  | rdDout5
  /-- Read DOUT6 (R243). -/
  | rdDout6
  /-- Read DOUT7 (R243). -/
  | rdDout7
  /-- Write the word c, legal or not, to CMD (R235). -/
  | wrCmd (c : Word)
  /-- Write v to DIN_LO (R236). -/
  | wrDinLo (v : Word)
  /-- Write v to DIN_HI (R237). -/
  | wrDinHi (v : Word)
  deriving DecidableEq, Repr

/-- The instruction a legal command stands for (R101). -/
def Command.toInstr : Command → Instr
  | .nop => .nop
  | .init => .init
  | .absorb len => .absorb len
  | .digest => .digest

end Sys2Proof
end

