-- ==== Sys2Proof/WellFormed.lean ====
section
/-! DEFINITION. Sys2Proof/WellFormed.lean: which terms of `Instr` are instructions the block has an encoding for.
The one check is ABSORB's length (R102): LEN is a 4-bit field and only 0..8 is legal. -/
namespace Sys2Proof

/-- ABSORB takes 0..8 bytes (R102); every other operand is legal at every value of its type. -/
def Instr.wf : Instr → Bool
  | .absorb len => decide (len.toNat ≤ 8)
  | .nop => true
  | .init => true
  | .digest => true
  | .rdId => true
  | .rdParam => true
  | .rdStatus => true
  | .rdDinLo => true
  | .rdDinHi => true
  | .rdDout0 => true
  | .rdDout1 => true
  | .rdDout2 => true
  | .rdDout3 => true
  | .rdDout4 => true
  | .rdDout5 => true
  | .rdDout6 => true
  | .rdDout7 => true
  | .wrCmd _ => true
  | .wrDinLo _ => true
  | .wrDinHi _ => true

end Sys2Proof
end

