-- ==== Sys2Proof/Decode.lean ====
section
/-! DEFINITION. Sys2Proof/Decode.lean: the two decoders, total: command words (R104) and bus access keys (R106), each
rejecting by the name of the error the block raises; after them the encoder, and the reading of an opcode-table
row's bits. -/
namespace Sys2Proof

/-- OP = c[3:0] (R100). -/
def commandOp (c : Word) : BitVec 4 := c.extractLsb' 0 4

/-- LEN = c[7:4], unsigned, not scaled (R100, R102). -/
def commandLen (c : Word) : BitVec 4 := c.extractLsb' 4 4

/-- RSVD = c[31:8] (R100, R103). -/
def commandRsvd (c : Word) : BitVec 24 := c.extractLsb' 8 24

/-- The result of `decodeCommand`: `Cmd | Err(code)` of R104. -/
inductive CommandDecode where
  | command (cmd : Command)
  | error (code : ErrorCode)
  deriving DecidableEq, Repr

/-- Decode(c) of R104: the four checks in their order, the first that fails giving the code (R283). -/
def decodeCommand (c : Word) : CommandDecode :=
  let op := commandOp c
  let len := commandLen c
  if 4 ≤ op.toNat then .error .illegalOp
  else if commandRsvd c ≠ 0 then .error .reservedBits
  else if op ≠ 2 ∧ len ≠ 0 then .error .reservedBits
  else if op = 2 ∧ 8 < len.toNat then .error .badLen
  else if op = 0 then .command .nop
  else if op = 1 then .command .init
  else if op = 2 then .command (.absorb len)
  else .command .digest

/-- The access key K = {we, addr[5:0]} (R100). -/
def Transaction.key (t : Transaction) : BitVec 7 := BitVec.ofBool t.we ++ t.addr

/-- The sixteen legal access keys of R106; a write carries its wdata. -/
def decodeKey (k : BitVec 7) (wdata : Word) : Option Instr :=
  match k with
  | 0x00#7 => some .rdId
  | 0x04#7 => some .rdParam
  | 0x0C#7 => some .rdStatus
  | 0x10#7 => some .rdDinLo
  | 0x14#7 => some .rdDinHi
  | 0x20#7 => some .rdDout0
  | 0x24#7 => some .rdDout1
  | 0x28#7 => some .rdDout2
  | 0x2C#7 => some .rdDout3
  | 0x30#7 => some .rdDout4
  | 0x34#7 => some .rdDout5
  | 0x38#7 => some .rdDout6
  | 0x3C#7 => some .rdDout7
  | 0x48#7 => some (.wrCmd wdata)
  | 0x50#7 => some (.wrDinLo wdata)
  | 0x54#7 => some (.wrDinHi wdata)
  | _ => none

/-- The group of R106 and R288 that an illegal transaction falls in. -/
def busErrorCause (t : Transaction) : BusErrorCause :=
  if t.addr.extractLsb' 0 2 ≠ 0 then .misaligned
  else if t.addr = 0x18 ∨ t.addr = 0x1C then .reservedOffset
  else if t.we then .writeToReadOnly
  else .readOfCmd

/-- The result of a decoder: an instruction, or the error that is raised, by name. -/
inductive DecodeResult where
  | instr (i : Instr)
  | rejected (r : Reject)
  deriving DecidableEq, Repr

/-- The decode of a bus transaction by its access key alone (R106, R290). -/
def decodeTransaction (t : Transaction) : DecodeResult :=
  match decodeKey t.key t.wdata with
  | some i => .instr i
  | none => .rejected (.busError t.addr (busErrorCause t))

/-- The decode of either format (R100). -/
def decode : Encoding → DecodeResult
  | .cmd c =>
    match decodeCommand c with
    | .command cmd => .instr cmd.toInstr
    | .error code => .rejected (.cmdError code)
  | .bus t => decodeTransaction t

/-- The bus transaction that carries an encoding: a command word is the wdata of a write with K = 0x48 (R34, R100). -/
def Encoding.transaction : Encoding → Transaction
  | .cmd c => { we := true, addr := 0x08, wdata := c }
  | .bus t => t

/-- The word {RSVD = 0, LEN, OP} (R100, R101). -/
def encodeCommandFields (op len : BitVec 4) : Word := (len ++ op).setWidth 32

/-- The word of a command (R101, R105). -/
def encodeCommand : Command → Word
  | .nop => encodeCommandFields 0 0
  | .init => encodeCommandFields 1 0
  | .absorb len => encodeCommandFields 2 len
  | .digest => encodeCommandFields 3 0

/-- The encoding of an instruction (R101, R106); a read carries wdata 0 (assumption 11). -/
def encode : Instr → Encoding
  | .nop => .cmd (encodeCommand .nop)
  | .init => .cmd (encodeCommand .init)
  | .absorb len => .cmd (encodeCommand (.absorb len))
  | .digest => .cmd (encodeCommand .digest)
  | .rdId => .bus { we := false, addr := 0x00, wdata := 0 }
  | .rdParam => .bus { we := false, addr := 0x04, wdata := 0 }
  | .rdStatus => .bus { we := false, addr := 0x0C, wdata := 0 }
  | .rdDinLo => .bus { we := false, addr := 0x10, wdata := 0 }
  | .rdDinHi => .bus { we := false, addr := 0x14, wdata := 0 }
  | .rdDout0 => .bus { we := false, addr := 0x20, wdata := 0 }
  | .rdDout1 => .bus { we := false, addr := 0x24, wdata := 0 }
  | .rdDout2 => .bus { we := false, addr := 0x28, wdata := 0 }
  | .rdDout3 => .bus { we := false, addr := 0x2C, wdata := 0 }
  | .rdDout4 => .bus { we := false, addr := 0x30, wdata := 0 }
  | .rdDout5 => .bus { we := false, addr := 0x34, wdata := 0 }
  | .rdDout6 => .bus { we := false, addr := 0x38, wdata := 0 }
  | .rdDout7 => .bus { we := false, addr := 0x3C, wdata := 0 }
  | .wrCmd c => .bus { we := true, addr := 0x08, wdata := c }
  | .wrDinLo v => .bus { we := true, addr := 0x10, wdata := v }
  | .wrDinHi v => .bus { we := true, addr := 0x14, wdata := v }

/-- The encoding whose bits are `w`, numbered as spec/opcode_table.json numbers them (assumption 8): a row of 32 bits
is a command word; any other row is a bus access, its key K in bits 6..0 (bit 7 is no bit of K and must be 0) and
its wdata in bits 39..8, which are 0 where the row gives fewer bits. -/
def encodingOfTableWord (nbits w : Nat) : Option Encoding :=
  let v := w % 2 ^ nbits
  if nbits = 32 then some (.cmd (BitVec.ofNat 32 v))
  else if v.testBit 7 then none
  else some (.bus { we := v.testBit 6, addr := BitVec.ofNat 6 v, wdata := BitVec.ofNat 32 (v / 256) })

/-- The instruction read from a table row's bits; none where the decoder rejects them. -/
def decodeTableWord (nbits w : Nat) : Option Instr :=
  match encodingOfTableWord nbits w with
  | none => none
  | some e =>
    match decode e with
    | .instr i => some i
    | .rejected _ => none

end Sys2Proof
end

