-- ==== Sys2Proof/Config.lean ====
section
/-! DEFINITION. Sys2Proof/Config.lean: the fixed parameters of R8 and R9, the two OPEN parameters an instance fixes
(ROUNDS_PER_CYCLE, KECCAK_BASE), and the one free value of the spec, the draw of STATUS.BUSY (R338). -/
namespace Sys2Proof.Config

/-- bits_to_bytes(b) = ceil(b / 8) (R131). -/
def bitsToBytes (b : Nat) : Nat := (b + 7) / 8

/-- LANE_W (R8). -/
abbrev laneWidth : Nat := 64
/-- NLANES (R8). -/
abbrev laneCount : Nat := 25
/-- STATE_W (R8). -/
abbrev stateWidth : Nat := 1600
/-- RATE_BYTES (R8, R131). -/
abbrev rateBytes : Nat := 136
/-- CAPACITY_BITS (R8). -/
abbrev capacityBits : Nat := 512
/-- DIGEST_BYTES (R8, R131). -/
abbrev digestBytes : Nat := 32
/-- NROUNDS = 12 + 2·log2(64) (R8, R136). -/
abbrev roundCount : Nat := 24
/-- BUF_CAP = RATE_BYTES − 1 (R9, R41). -/
abbrev bufferCapacity : Nat := 135
/-- ABSORB_MAX (R9). -/
abbrev absorbMax : Nat := 8
/-- VERSION, the field 31:24 of PARAM (R33). -/
abbrev version : Byte := 0x01

/-- The legal values of ROUNDS_PER_CYCLE (R9, R10). -/
inductive RoundsPerCycle where
  | r1 | r2 | r3 | r4 | r6 | r8 | r12 | r24
  deriving DecidableEq, Repr, Inhabited

/-- The number a value of ROUNDS_PER_CYCLE stands for (R9). -/
def RoundsPerCycle.toNat : RoundsPerCycle → Nat
  | .r1 => 1
  | .r2 => 2
  | .r3 => 3
  | .r4 => 4
  | .r6 => 6
  | .r8 => 8
  | .r12 => 12
  | .r24 => 24

/-- ROUNDS_PER_CYCLE of this instance: OPEN (R9, D15), so no value of it can be proved (assumption 5). -/
opaque roundsPerCycle : RoundsPerCycle

/-- KECCAK_BASE / 64: OPEN (R9, R70, D4), set by the platform (assumption 5). -/
opaque keccakBaseIndex : Nat

/-- KECCAK_BASE, a multiple of 64 (R9, R70). -/
def keccakBase : Nat := 64 * keccakBaseIndex

/-- FREE VALUE: the n-th draw of STATUS.BUSY made while MAYBUSY = 1 (R338, D14; assumption 4). -/
opaque busyDraw : Nat → Bool

end Sys2Proof.Config
end

