-- ==== Sys2Proof/Machine/State.lean ====
section
/-! DEFINITION. Sys2Proof/Machine/State.lean: the machine's state as plain data: the abstract state of R50, the hidden
state of R44 and R45, and the host side (what the host has still to present, the draws made, the answers given);
the reset state of R49; the reasons a step could stop. -/
namespace Sys2Proof.Machine

/-- PHASE: what the engine is doing (R45). -/
inductive Phase where
  /-- No permutation runs. -/
  | idle
  /-- Permuting S, after a completed block. -/
  | permS
  /-- Permuting W, for a DIGEST. -/
  | permW
  deriving DecidableEq, Repr

/-- What the outside world does next to the block: the inputs of R71, taken one at a time, in acceptance order (R82). -/
inductive HostInput where
  /-- A transaction is presented and held until it is accepted (R72). -/
  | present (t : Transaction)
  /-- A clock edge goes by with req = 0 and rst = 0. -/
  | idle
  /-- A clock edge with rst = 1 (R320, R321), at which the transaction `held`, if any, is presented and not accepted: the
  host presents it again later, as an input of its own. -/
  | rst (held : Option Transaction)
  deriving DecidableEq, Repr

/-- The state of the block, with the host side it is driven from. -/
structure State where
  /-- The sponge state S (R40). -/
  S : LaneMatrix
  /-- The pending input bytes BUF[0..134] (R41). -/
  buf : Vector Byte 135
  /-- BUF_LEN, 0..135 (R41). -/
  bufLen : Fin 136
  /-- DIN = DIN_HI ++ DIN_LO (R42). -/
  din : BitVec 64
  /-- DOUTB[0..31], read through DOUT0..7 (R43). -/
  doutb : Vector Byte 32
  /-- STATUS.DIGEST_VALID (R37). -/
  digestValid : Bool
  /-- STATUS.ERR (R38). -/
  err : Bool
  /-- STATUS.ERRCODE (R38). -/
  errcode : BitVec 4
  /-- MAYBUSY, which stands for STATUS.BUSY where time is not modelled (R50, R338). -/
  mayBusy : Bool
  /-- The working copy W of a DIGEST (R44). -/
  W : LaneMatrix
  /-- PHASE of the engine (R45). -/
  phase : Phase
  /-- ROUND, the index of the next round to apply (R45). -/
  round : Fin 24
  /-- PEND, the bytes of an ABSORB still to be placed in BUF (R45). -/
  pend : List Byte
  /-- MODEL's own: what the host has still to do, the next input first. -/
  host : List HostInput
  /-- MODEL's own: how many draws of STATUS.BUSY have been made. -/
  draws : Nat
  /-- MODEL's own: what the block answered each accepted transaction with, the latest first (R339). -/
  responses : List Response
  deriving DecidableEq, Repr

/-- The reset state, the empty session: every value is given by R49, but for the model's own three fields
(assumption 1, assumption 4). -/
def State.reset : State where
  S := LaneMatrix.zero
  buf := Vector.replicate 135 0
  bufLen := 0
  din := 0
  doutb := Vector.replicate 32 0
  digestValid := false
  err := false
  errcode := 0
  mayBusy := false
  W := LaneMatrix.zero
  phase := .idle
  round := 0
  pend := []
  host := []
  draws := 0
  responses := []

/-- Why a step could stop with a fault. There is no constructor, since the block never stops: its two errors,
CmdError and BusError, are recorded or answered and the block goes on (R280, R282, R289; assumption 3). Nobody raises a
fault, and that is safe. -/
inductive Fault where
  deriving DecidableEq, Repr

/-- Why a step could be refused. -/
inductive Refusal where
  /-- Raised by an arm of `exec` for an instruction that has no meaning yet; safe, since the run ends there. -/
  | notModelled (mnemonic : String)
  deriving DecidableEq, Repr

end Sys2Proof.Machine
end

