-- ==== Sys2Proof/Machine/Flags.lean ====
section
/-! DEFINITION. Sys2Proof/Machine/Flags.lean: the flags of STATUS (R35 to R39, R48) and how they are computed: BUSY of the
hardware, the ERRCODE of an error, DIGEST_VALID after an ABSORB, and the STATUS word. -/
namespace Sys2Proof.Machine

/-- The code of a command error, as ERRCODE holds it (R281). -/
def errorCodeBits : ErrorCode → BitVec 4
  | .illegalOp => 1
  | .reservedBits => 2
  | .badLen => 3

/-- BUSY of the hardware: 1 exactly when PHASE ≠ IDLE (R45, R331). -/
def State.busy (s : State) : Bool := s.phase != .idle

/-- DIGEST_VALID after an executed ABSORB of n bytes: cleared when n ≥ 1, else unchanged (R37, R233). -/
def digestValidAfterAbsorb (n : Nat) (digestValid : Bool) : Bool := if 1 ≤ n then false else digestValid

/-- Whether an ABSORB of n bytes completes a block: its bytes reach the 136th pending byte (R41, R233). -/
def State.completesBlock (n : Nat) (s : State) : Bool := decide (136 ≤ s.bufLen.val + n)

/-- The STATUS word, given the value BUSY reads as (R35, R240):
zext_32({BUF_LEN[7:0], ERRCODE[3:0], 0, ERR, DIGEST_VALID, BUSY}). -/
def statusWord (busy : Bool) (s : State) : Word :=
  (BitVec.ofNat 8 s.bufLen.val ++ s.errcode ++ (0 : BitVec 1) ++ BitVec.ofBool s.err ++ BitVec.ofBool s.digestValid ++
    BitVec.ofBool busy).setWidth 32

end Sys2Proof.Machine
end

