-- ==== Sys2Proof/Machine/Operands.lean ====
section
/-! DEFINITION. Sys2Proof/Machine/Operands.lean: byte order and operand assembly: the bytes of a lane and of a bus word,
the stream bytes an ABSORB takes from DIN, the halves of DIN, the words DOUT0..7, ID and PARAM. -/
namespace Sys2Proof.Machine

/-- Byte k of a lane, little-endian: v[8k+7:8k] (R180). -/
def laneByte (v : Lane) (k : Nat) : Byte := v.extractLsb' (8 * k) 8

/-- The lane whose byte k is `f k`, little-endian (R180). -/
def laneOfBytes (f : Fin 8 → Byte) : Lane := f 7 ++ f 6 ++ f 5 ++ f 4 ++ f 3 ++ f 2 ++ f 1 ++ f 0

/-- The bus word whose byte k is `f k`, little-endian (R76). -/
def wordOfBytes (f : Fin 4 → Byte) : Word := f 3 ++ f 2 ++ f 1 ++ f 0

/-- The stream bytes of an ABSORB of `n` bytes, first byte first: DIN[7:0], DIN[15:8], … (R76, R233).
An ABSORB has n ≤ 8; that a larger n gives all eight bytes is the model's choice (DESIGN CHOICE, assumption 20), which no step
reaches. -/
def dinBytes (n : Nat) (din : BitVec 64) : List Byte := ((List.range 8).map (laneByte din)).take n

/-- DIN_LO = DIN[31:0] (R42). -/
def dinLo (din : BitVec 64) : Word := din.extractLsb' 0 32

/-- DIN_HI = DIN[63:32] (R42). -/
def dinHi (din : BitVec 64) : Word := din.extractLsb' 32 32

/-- DIN = {DIN_HI, DIN_LO} (R42). -/
def dinOf (hi lo : Word) : BitVec 64 := hi ++ lo

/-- DOUTj = {DOUTB[4j+3], DOUTB[4j+2], DOUTB[4j+1], DOUTB[4j]} (R43, R76). -/
def doutWord (j : Fin 8) (doutb : Vector Byte 32) : Word := wordOfBytes fun k => doutb[4 * j.val + k.val]

/-- ID: the ASCII bytes 'K', '2', '5', '6', with 'K' in bits 31:24 (R32). -/
def idWord : Word := 0x4B323536

/-- PARAM = {VERSION, DIGEST_BYTES, RATE_BYTES, ROUNDS_PER_CYCLE} (R33, R239). -/
def paramWord (rpc : Config.RoundsPerCycle) : Word :=
  Config.version ++ BitVec.ofNat 8 Config.digestBytes ++ BitVec.ofNat 8 Config.rateBytes ++ BitVec.ofNat 8 rpc.toNat

/-- The address at which the host finds the offset `off` of the window (R70); it is no value the block computes with. -/
def hostAddress (off : BitVec 6) : Nat := Config.keccakBase + off.toNat

end Sys2Proof.Machine
end

