-- ==== Sys2Proof/Machine/Permutation.lean ====
section
/-! DEFINITION. Sys2Proof/Machine/Permutation.lean: the permutation engine's function (40_permutation.md): the rotation,
the two constant tables and their generators, the five steps, the round and Keccak-f[1600]. -/
namespace Sys2Proof.Machine

/-- ROTL64(v, n): left rotation, the amount taken mod 64 (R130). -/
def rotl64 (v : Lane) (n : Nat) : Lane :=
  let m := n % 64
  if m = 0 then v else (v <<< m) ||| (v >>> (64 - m))

/-- The rows of the spec's table of round constants (R132): row i holds RC[i] and RC[i + 12]. -/
def roundConstantRows : Vector (Lane × Lane) 12 := #v[
  (0x0000000000000001, 0x000000008000808B),
  (0x0000000000008082, 0x800000000000008B),
  (0x800000000000808A, 0x8000000000008089),
  (0x8000000080008000, 0x8000000000008003),
  (0x000000000000808B, 0x8000000000008002),
  (0x0000000080000001, 0x8000000000000080),
  (0x8000000080008081, 0x000000000000800A),
  (0x8000000000008009, 0x800000008000000A),
  (0x000000000000008A, 0x8000000080008081),
  (0x0000000000000088, 0x8000000000008080),
  (0x0000000080008009, 0x0000000080000001),
  (0x000000008000000A, 0x8000000080008008)]

/-- The round constants RC[0..23]: the left column of the table of R132, then its right column (assumption 9). -/
def RC : Vector Lane 24 := Vector.ofFn fun i =>
  if h : i.val < 12 then roundConstantRows[i.val].1 else roundConstantRows[i.val - 12].2

/-- One shift of the LFSR register of R133, on 9 bits; bit 8 of the result is clear. -/
def lfsrShift (r : BitVec 9) : BitVec 9 :=
  let r' := r <<< 1
  if r'.getLsbD 8 then r' ^^^ 0x171 else r'

/-- `n` shifts of the LFSR register of R133. -/
def lfsrShifts : Nat → BitVec 9 → BitVec 9
  | 0, r => r
  | n + 1, r => lfsrShifts n (lfsrShift r)

/-- rc(t) of R133. -/
def rcBit (t : Nat) : Bool :=
  if t % 255 = 0 then true else (lfsrShifts (t % 255) 0x01).getLsbD 0

/-- The round constant that the generator of R133 gives for round i: bit 2^j − 1 is rc(j + 7i) for j in 0..6. -/
def generatedRC (i : Nat) : Lane :=
  (List.range 7).foldl (fun v j => if rcBit (j + 7 * i) then v ||| BitVec.twoPow 64 (2 ^ j - 1) else v) 0

/-- Row y of the rotation table (R134), from x = 0 to x = 4. -/
def rotRow : Fin 5 → Vector Nat 5
  | 0 => #v[0, 1, 62, 28, 27]
  | 1 => #v[36, 44, 6, 55, 20]
  | 2 => #v[3, 10, 43, 25, 39]
  | 3 => #v[41, 45, 15, 21, 8]
  | 4 => #v[18, 2, 61, 56, 14]

/-- The rotation table ROT[y][x], row first (R134; assumption 9). -/
def ROT : Vector (Vector Nat 5) 5 := Vector.ofFn rotRow

/-- The lane (x, y) that step t of the generator of R135 gives an offset to. -/
def rotWalk : Nat → Fin 5 × Fin 5
  | 0 => (1, 0)
  | t + 1 => ((rotWalk t).2, 2 * (rotWalk t).1 + 3 * (rotWalk t).2)

/-- The offset that step t of the generator of R135 gives. -/
def rotOffset (t : Nat) : Nat := ((t + 1) * (t + 2) / 2) % 64

/-- Theta (R137): C and D in full from the input, then A' from A and D. -/
def theta (A : LaneMatrix) : LaneMatrix :=
  let C : Vector Lane 5 := Vector.ofFn fun x => A[x][0] ^^^ A[x][1] ^^^ A[x][2] ^^^ A[x][3] ^^^ A[x][4]
  let D : Vector Lane 5 := Vector.ofFn fun x => C[x - 1] ^^^ rotl64 C[x + 1] 1
  LaneMatrix.ofFn fun x y => A[x][y] ^^^ D[x]

/-- Rho and Pi, fused (R138), in the gather form that rule gives: every lane of the result is read from A. -/
def rhoPi (A : LaneMatrix) : LaneMatrix :=
  LaneMatrix.ofFn fun X Y =>
    let x := X + 3 * Y
    rotl64 A[x][X] ROT[X][x]

/-- Chi (R140). -/
def chi (B : LaneMatrix) : LaneMatrix :=
  LaneMatrix.ofFn fun x y => B[x][y] ^^^ (~~~B[x + 1][y] &&& B[x + 2][y])

/-- Iota (R141): RC[i] is XORed into lane (0, 0) only. -/
def iota (A : LaneMatrix) (i : Fin 24) : LaneMatrix :=
  LaneMatrix.ofFn fun x y => if x = 0 ∧ y = 0 then A[x][y] ^^^ RC[i] else A[x][y]

/-- The round function Rnd(A, i) (R142). -/
def rnd (A : LaneMatrix) (i : Fin 24) : LaneMatrix := iota (chi (rhoPi (theta A))) i

/-- The rounds in their order, i = 0 first (R136, R143). -/
def roundOrder : List (Fin 24) := List.finRange 24

/-- KeccakF(A), the 24 rounds in order (R143). -/
@[irreducible] def keccakF (A : LaneMatrix) : LaneMatrix := roundOrder.foldl rnd A

/-- Rounds `i .. i + n − 1` applied to A, stopping at round 23 (R145). -/
@[irreducible] def applyRounds (i n : Nat) (A : LaneMatrix) : LaneMatrix := ((roundOrder.drop i).take n).foldl rnd A

/-- The rounds from round `i` to round 23: what is left of a permutation whose next round is `i` (R45, R145). -/
@[irreducible] def remainingRounds (i : Nat) (A : LaneMatrix) : LaneMatrix := (roundOrder.drop i).foldl rnd A

end Sys2Proof.Machine
end

