-- ==== Sys2Proof/Machine/Sponge.lean ====
section
/-! DEFINITION. Sys2Proof/Machine/Sponge.lean: the sponge's pure functions (41_sponge.md): serialization, the absorb of one
block, padding, the final absorb, the digest, the source's absorb over whole byte strings, and the hash; and
the block's byte-at-a-time absorb over `State`. -/
namespace Sys2Proof.Machine

/-- The lane (x, y) of linear index L = 5y + x (R180, R181). -/
def laneOfIndex (A : LaneMatrix) (L : Fin 25) : Lane :=
  A[L.val % 5][L.val / 5]

/-- Ser(A)[i] (R180). -/
def serByte (A : LaneMatrix) (i : Fin 200) : Byte :=
  laneByte (laneOfIndex A ⟨i.val / 8, by omega⟩) (i.val % 8)

/-- Ser(A), the 200 bytes of a lane matrix, y outer, x inner, each lane little-endian (R180). -/
@[irreducible] def ser (A : LaneMatrix) : Vector Byte 200 := Vector.ofFn (serByte A)

/-- Deser(b), the inverse of Ser (R180). -/
def deser (b : Vector Byte 200) : LaneMatrix :=
  LaneMatrix.ofFn fun x y => laneOfBytes fun k => b[8 * (5 * y.val + x.val) + k.val]

/-- AbsorbBlock(A, blk) (R182), lane by lane: lane L = 5y + x < 17 is XORed with bytes 8L..8L+7 of the block,
and the capacity lanes are unchanged. -/
@[irreducible] def absorbBlock (A : LaneMatrix) (blk : Vector Byte 136) : LaneMatrix :=
  LaneMatrix.ofFn fun x y =>
    if h : 5 * y.val + x.val < 17 then
      A[x][y] ^^^ laneOfBytes fun k => blk[8 * (5 * y.val + x.val) + k.val]
    else A[x][y]

/-- The 136-byte block whose bytes are the list's. The block is given 136 bytes (R183); that a shorter list is filled up with 0
and a longer one cut is the model's choice (DESIGN CHOICE, assumption 20), which no step reaches. -/
@[irreducible] def blockOf (l : List Byte) : Vector Byte 136 := Vector.ofFn fun i => l.getD i.val 0

/-- Extract(A), the rate prefix of the serialization (R184). -/
def extractRate (A : LaneMatrix) : Vector Byte 136 := (ser A).take 136

/-- pad(used, rate): the multi-rate padding with domain byte 0x01 (R188, R195). Its domain is used ≤ rate (R189); that it
gives a whole block of padding above it is the model's choice (DESIGN CHOICE, assumption 20), which no use reaches. -/
def pad (used rate : Nat) : List Byte :=
  let padlen := if rate - used = 0 then rate else rate - used
  if padlen = 1 then [0x81] else [0x01] ++ List.replicate (padlen - 2) 0x00 ++ [0x80]

/-- The padded final block of the pending bytes (R190). -/
def finalBlock (pending : List Byte) : Vector Byte 136 :=
  blockOf (pending ++ pad pending.length Config.rateBytes)

/-- AbsorbFinal(S, buf) (R190). -/
def absorbFinal (S : LaneMatrix) (pending : List Byte) : LaneMatrix :=
  keccakF (absorbBlock S (finalBlock pending))

/-- The first 32 bytes of the rate prefix (R184, R191). -/
@[irreducible] def squeeze (A : LaneMatrix) : Vector Byte 32 := (extractRate A).take 32

/-- Digest(S, BUF, n), of the pending bytes BUF[0..n) (R192). -/
def digestOf (S : LaneMatrix) (pending : List Byte) : Vector Byte 32 := squeeze (absorbFinal S pending)

/-- The loop of R185, run `k` times: one complete block is popped and absorbed each time. -/
def drain : Nat → LaneMatrix → List Byte → LaneMatrix × List Byte
  | 0, S, buf => (S, buf)
  | k + 1, S, buf => drain k (keccakF (absorbBlock S (blockOf (buf.take 136)))) (buf.drop 136)

/-- SpongeAbsorb(S, buf, data): the source's absorb (R185). Its loop runs once for every complete block. -/
def spongeAbsorb (S : LaneMatrix) (buf data : List Byte) : LaneMatrix × List Byte :=
  drain ((buf ++ data).length / 136) S (buf ++ data)

/-- H(M), the Keccak-256 hash of a byte string (R193). -/
def keccak256 (M : List Byte) : Vector Byte 32 :=
  let r := spongeAbsorb LaneMatrix.zero [] M
  digestOf r.1 r.2

/-- The pending bytes BUF[0..BUF_LEN), in arrival order (R41). -/
def State.pending (s : State) : List Byte := s.buf.toList.take s.bufLen.val

/-- AbsorbByte(b) (R186): the 136th pending byte completes a block, which is absorbed and permuted. -/
def absorbByte (b : Byte) (s : State) : State :=
  if h : s.bufLen.val < 135 then
    { s with buf := s.buf.set s.bufLen.val b, bufLen := ⟨s.bufLen.val + 1, by omega⟩ }
  else
    { s with S := keccakF (absorbBlock s.S (s.buf.push b)), bufLen := 0 }

/-- AbsorbByte over the bytes of a list, first byte first (R186, R233). -/
def absorbBytes (bytes : List Byte) (s : State) : State := bytes.foldl (fun s b => absorbByte b s) s

end Sys2Proof.Machine
end

