-- ==== Sys2Proof/Machine/Ops.lean ====
section
/-! DEFINITION. Sys2Proof/Machine/Ops.lean: the shared operations over the state: answering a transaction, the two errors
(raising a CmdError and leaving the error state; a BusError), the end of an accepted CMD write, the writes of
DIN's halves, the reads of STATUS and DOUT, and what INIT, ABSORB and DIGEST do to the session. -/
namespace Sys2Proof.Machine

/-- The block answers the accepted transaction (R72). -/
def State.respond (r : Response) (s : State) : State := { s with responses := r :: s.responses }

/-- A legal read of offset `off` returns `v` with err = 0 (R72). -/
def State.answerRead (off : BitVec 6) (v : Word) (s : State) : State := s.respond (.read off v false)

/-- A legal write to offset `off` completes with err = 0 (R72). -/
def State.answerWrite (off : BitVec 6) (s : State) : State := s.respond (.write off false)

/-- `raise CmdError(code)` (R282): taken only while ERR = 0, it records the code and changes nothing else. -/
def State.raiseCmdError (code : ErrorCode) (s : State) : State :=
  { s with err := true, errcode := errorCodeBits code }

/-- The way out of the error state, part of INIT and of nothing else but reset (R38, R285). -/
def State.clearCmdError (s : State) : State := { s with err := false, errcode := 0 }

/-- `raise BusError(off)` (R289, R290; assumption 2): the transaction is answered with err = 1, a read with
rdata = 0, and no state of the block changes. -/
def State.takeBusError (t : Transaction) (s : State) : State :=
  s.respond (if t.we then .write t.addr true else .read t.addr 0 true)

/-- The end of an accepted CMD write (R338): MAYBUSY says whether it started a permutation, and the write is
answered without a bus error (R230). -/
def State.endCommand (started : Bool) (s : State) : State :=
  ({ s with mayBusy := started } : State).answerWrite 0x08

/-- A command discarded while ERR = 1 has no effect (R284); its CMD write completes (assumption 14). -/
def State.discardCommand (s : State) : State := s.endCommand false

/-- `raise CmdError(code)` or the discarding of the word, by ERR (R230, R284). -/
def State.rejectCommand (code : ErrorCode) (s : State) : State :=
  if s.err then s.discardCommand else (s.raiseCmdError code).endCommand false

/-- Exec(INIT) (R232): a new session; DIN is not changed. -/
def State.startSession (s : State) : State :=
  ({ s with
      S := LaneMatrix.zero
      buf := Vector.replicate 135 0
      bufLen := 0
      doutb := Vector.replicate 32 0
      digestValid := false } : State).clearCmdError

/-- Exec(ABSORB n) (R233). -/
def State.absorbDin (n : Nat) (s : State) : State :=
  let t := absorbBytes (dinBytes n s.din) s
  { t with digestValid := digestValidAfterAbsorb n t.digestValid }

/-- Exec(DIGEST) (R234): W is loaded from S, takes the padded final block and is permuted; DOUTB takes its first 32
bytes. S, BUF and BUF_LEN are read only. -/
def State.computeDigest (s : State) : State :=
  let w := absorbFinal s.S s.pending
  { s with W := w, doutb := squeeze w, digestValid := true }

/-- DIN_LO <- v (R236). -/
def State.setDinLo (v : Word) (s : State) : State := { s with din := dinOf (dinHi s.din) v }

/-- DIN_HI <- v (R237). -/
def State.setDinHi (v : Word) (s : State) : State := { s with din := dinOf v (dinLo s.din) }

/-- A read of DOUTj (R243), accepted when BUSY = 0, so MAYBUSY is cleared (R338). -/
def State.readDout (j : Fin 8) (s : State) : State :=
  ({ s with mayBusy := false } : State).answerRead (BitVec.ofNat 6 (0x20 + 4 * j.val)) (doutWord j s.doutb)

end Sys2Proof.Machine
end

