-- ==== Sys2Proof/Machine/Engine.lean ====
section
/-! DEFINITION. Sys2Proof/Machine/Engine.lean: the permutation engine as hardware (R45, R145, R331): the acceptance edge of a
command that starts a permutation, one clock edge of the engine, and the wait for BUSY = 0. -/
namespace Sys2Proof.Machine

/-- The PEND bytes written to BUF[0..) (R331). -/
def placePending (pend : List Byte) (buf : Vector Byte 135) : Vector Byte 135 :=
  Vector.ofFn fun k => pend.getD k.val buf[k]

/-- The engine runs the rounds it has left and writes the result (R331): S and the PEND bytes, or W and DOUTB.
It is also what a wait for BUSY = 0 leaves (R332, R333). -/
def State.waitIdle (s : State) : State :=
  match s.phase with
  | .idle => s
  | .permS =>
    { s with
        S := remainingRounds s.round.val s.S
        buf := placePending s.pend s.buf
        pend := []
        phase := .idle
        round := 0 }
  | .permW =>
    let w := remainingRounds s.round.val s.W
    { s with W := w, doutb := squeeze w, phase := .idle, round := 0 }

/-- One clock edge of the engine, with `rpc` rounds to a cycle (R145, R331). The edge that applies round 23 also
writes the result; ROUND is then 0 again (assumption 7). -/
def State.engineEdge (rpc : Nat) (s : State) : State :=
  if h : s.round.val + rpc < 24 then
    match s.phase with
    | .idle => s
    | .permS => { s with S := applyRounds s.round.val rpc s.S, round := ⟨s.round.val + rpc, h⟩ }
    | .permW => { s with W := applyRounds s.round.val rpc s.W, round := ⟨s.round.val + rpc, h⟩ }
  else s.waitIdle

/-- The acceptance edge of an ABSORB of n bytes that completes a block (R331): the completed block is XORed into S, the
bytes after the completing one go to PEND, and BUF_LEN takes its final value. -/
def State.startAbsorb (n : Nat) (s : State) : State :=
  let bytes := dinBytes n s.din
  let room := 135 - s.bufLen.val
  let t := absorbBytes (bytes.take room) s
  let rest := bytes.drop (room + 1)
  { t with
      S := absorbBlock t.S (t.buf.push (bytes.getD room 0))
      bufLen := Fin.ofNat 136 rest.length
      digestValid := false
      phase := .permS
      round := 0
      pend := rest }

/-- The acceptance edge of a DIGEST (R331). -/
def State.startDigest (s : State) : State :=
  { s with
      W := absorbBlock s.S (finalBlock s.pending)
      digestValid := true
      phase := .permW
      round := 0 }

/-- The accesses that wait while BUSY = 1: CMD writes (R332) and DOUT reads (R333), and no others (R334). -/
def waitsForIdle : Instr → Bool
  | .nop => true
  | .init => true
  | .absorb _ => true
  | .digest => true
  | .rdId => false
  | .rdParam => false
  | .rdStatus => false
  | .rdDinLo => false
  | .rdDinHi => false
  | .rdDout0 => true
  | .rdDout1 => true
  | .rdDout2 => true
  | .rdDout3 => true
  | .rdDout4 => true
  | .rdDout5 => true
  | .rdDout6 => true
  | .rdDout7 => true
  | .wrCmd _ => true
  | .wrDinLo _ => false
  | .wrDinHi _ => false

/-- The wait that comes before the acceptance of an instruction (R332, R333, R334). -/
def State.waitFor (i : Instr) (s : State) : State := if waitsForIdle i then s.waitIdle else s

end Sys2Proof.Machine
end

