-- ==== Sys2Proof/Machine/Commands.lean ====
section
/-! DEFINITION. Sys2Proof/Machine/Commands.lean: the meanings of the command words NOP, INIT, ABSORB and DIGEST, each as the
accepted CMD write of its word (R230 to R234), and of the CMD write of any word (R235). -/
namespace Sys2Proof.Machine

/-- NOP (R231): nothing, whether ERR is 0 (executed) or 1 (discarded, R284). -/
def execNop (s : State) : Host.Outcome State Fault Refusal := .next (s.endCommand false)

/-- INIT (R232), the one command that executes while ERR = 1 (R284). -/
def execInit (s : State) : Host.Outcome State Fault Refusal := .next (s.startSession.endCommand false)

/-- ABSORB n (R233). LEN = 9..15 raises CmdError(BAD_LEN) (R102). -/
def execAbsorb (len : BitVec 4) (s : State) : Host.Outcome State Fault Refusal :=
  .next
    (if 8 < len.toNat then s.rejectCommand .badLen
     else if s.err then s.discardCommand
     else (s.absorbDin len.toNat).endCommand (s.completesBlock len.toNat))

/-- DIGEST (R234). -/
def execDigest (s : State) : Host.Outcome State Fault Refusal :=
  .next (if s.err then s.discardCommand else s.computeDigest.endCommand true)

/-- Write CMD (R235): Dispatch(c) of R230. -/
def execWrCmd (c : Word) (s : State) : Host.Outcome State Fault Refusal :=
  match decodeCommand c with
  | .command .nop => execNop s
  | .command .init => execInit s
  | .command (.absorb len) => execAbsorb len s
  | .command .digest => execDigest s
  | .error code => .next (s.rejectCommand code)

end Sys2Proof.Machine
end

