-- ==== Sys2Proof/Machine/Registers.lean ====
section
/-! DEFINITION. Sys2Proof/Machine/Registers.lean: the meanings of the register reads (R238 to R243) and of the writes of DIN
(R236, R237). -/
namespace Sys2Proof.Machine

/-- A STATUS read (R240) that finds BUSY as R338 says: 0 while MAYBUSY = 0, the draw `d` otherwise. A draw of 0 means
that the permutation has ended: MAYBUSY is cleared, and the engine is idle (assumption 12). -/
def State.readStatus (d : Bool) (s : State) : State :=
  if s.mayBusy then
    if d then ({ s with draws := s.draws + 1 } : State).answerRead 0x0C (statusWord true s)
    else ({ s.waitIdle with mayBusy := false, draws := s.draws + 1 } : State).answerRead 0x0C (statusWord false s)
  else s.answerRead 0x0C (statusWord false s)

/-- RD_ID (R238). -/
def execRdId (s : State) : Host.Outcome State Fault Refusal := .next (s.answerRead 0x00 idWord)

/-- RD_PARAM (R239). -/
def execRdParam (s : State) : Host.Outcome State Fault Refusal :=
  .next (s.answerRead 0x04 (paramWord Config.roundsPerCycle))

/-- RD_STATUS (R240), the draw being the next one of the free value `Config.busyDraw` (assumption 4). -/
def execRdStatus (s : State) : Host.Outcome State Fault Refusal := .next (s.readStatus (Config.busyDraw s.draws))

/-- RD_DIN_LO (R241). -/
def execRdDinLo (s : State) : Host.Outcome State Fault Refusal := .next (s.answerRead 0x10 (dinLo s.din))

/-- RD_DIN_HI (R242). -/
def execRdDinHi (s : State) : Host.Outcome State Fault Refusal := .next (s.answerRead 0x14 (dinHi s.din))

/-- RD_DOUT0 (R243). -/
def execRdDout0 (s : State) : Host.Outcome State Fault Refusal := .next (s.readDout 0)

/-- RD_DOUT1 (R243). -/
def execRdDout1 (s : State) : Host.Outcome State Fault Refusal := .next (s.readDout 1)

/-- RD_DOUT2 (R243). -/
def execRdDout2 (s : State) : Host.Outcome State Fault Refusal := .next (s.readDout 2)

/-- RD_DOUT3 (R243). -/
def execRdDout3 (s : State) : Host.Outcome State Fault Refusal := .next (s.readDout 3)

/-- RD_DOUT4 (R243). -/
def execRdDout4 (s : State) : Host.Outcome State Fault Refusal := .next (s.readDout 4)

/-- RD_DOUT5 (R243). -/
def execRdDout5 (s : State) : Host.Outcome State Fault Refusal := .next (s.readDout 5)

/-- RD_DOUT6 (R243). -/
def execRdDout6 (s : State) : Host.Outcome State Fault Refusal := .next (s.readDout 6)

/-- RD_DOUT7 (R243). -/
def execRdDout7 (s : State) : Host.Outcome State Fault Refusal := .next (s.readDout 7)

/-- WR_DIN_LO (R236). -/
def execWrDinLo (v : Word) (s : State) : Host.Outcome State Fault Refusal := .next ((s.setDinLo v).answerWrite 0x10)

/-- WR_DIN_HI (R237). -/
def execWrDinHi (v : Word) (s : State) : Host.Outcome State Fault Refusal := .next ((s.setDinHi v).answerWrite 0x14)

end Sys2Proof.Machine
end

