-- ==== Sys2Proof/Machine/Dispatch.lean ====
section
/-! DEFINITION. Sys2Proof/Machine/Dispatch.lean: one arm per instruction, each a call of its meaning. -/
namespace Sys2Proof.Machine

def exec (i : Instr) (s : State) : Host.Outcome State Fault Refusal :=
  match i with
  | .nop => Sys2Proof.Machine.execNop s
  | .init => Sys2Proof.Machine.execInit s
  | .absorb len => Sys2Proof.Machine.execAbsorb len s
  | .digest => Sys2Proof.Machine.execDigest s
  | .rdId => Sys2Proof.Machine.execRdId s
  | .rdParam => Sys2Proof.Machine.execRdParam s
  | .rdStatus => Sys2Proof.Machine.execRdStatus s
  | .rdDinLo => Sys2Proof.Machine.execRdDinLo s
  | .rdDinHi => Sys2Proof.Machine.execRdDinHi s
  | .rdDout0 => Sys2Proof.Machine.execRdDout0 s
  | .rdDout1 => Sys2Proof.Machine.execRdDout1 s
  | .rdDout2 => Sys2Proof.Machine.execRdDout2 s
  | .rdDout3 => Sys2Proof.Machine.execRdDout3 s
  | .rdDout4 => Sys2Proof.Machine.execRdDout4 s
  | .rdDout5 => Sys2Proof.Machine.execRdDout5 s
  | .rdDout6 => Sys2Proof.Machine.execRdDout6 s
  | .rdDout7 => Sys2Proof.Machine.execRdDout7 s
  | .wrCmd c => Sys2Proof.Machine.execWrCmd c s
  | .wrDinLo v => Sys2Proof.Machine.execWrDinLo v s
  | .wrDinHi v => Sys2Proof.Machine.execWrDinHi v s

end Sys2Proof.Machine
end

