-- ==== Sys2Proof/Machine/Bus.lean ====
section
/-! DEFINITION. Sys2Proof/Machine/Bus.lean: what one host input does to the block where time is not modelled (R330): an accepted
transaction, whole, after the wait it may need; a reset edge; an idle edge. Also the observation of R339. -/
namespace Sys2Proof.Machine

/-- The acceptance of a presented transaction (R72, R330): after the wait for BUSY = 0 where its access waits, its
instruction is executed; a transaction with an illegal key is a BusError (R288), which does not wait (R289). -/
def State.acceptTransaction (t : Transaction) (s : State) : Host.Outcome State Fault Refusal :=
  match decodeTransaction t with
  | .instr i => exec i (s.waitFor i)
  | .rejected _ => .next (s.takeBusError t)

/-- A clock edge with rst = 1 (R321): all state of the block takes its reset value, and a permutation in flight is
abandoned; what belongs to the host's side stays (assumption 13). -/
def State.resetEdge (s : State) : State :=
  { State.reset with host := s.host, draws := s.draws, responses := s.responses }

/-- What the next input of the host does (R330, R321). An idle edge changes nothing where time is not modelled, and
with no input left the block only waits (assumption 1). -/
def State.takeInput (s : State) : Host.Outcome State Fault Refusal :=
  match s.host with
  | [] => .next s
  | .idle :: rest => .next { s with host := rest }
  | .rst _ :: rest => .next ({ s with host := rest } : State).resetEdge
  | .present t :: rest => ({ s with host := rest } : State).acceptTransaction t

/-- The host's next input is set to the transaction that carries an encoding. -/
def State.presentEncoding (e : Encoding) (s : State) : State := { s with host := .present e.transaction :: s.host }

/-- The value a response carries, if it answered a read. -/
def readValueOf : Response → Option Word
  | .read _ v _ => some v
  | .write _ _ => none

/-- A program's observation: the values its reads returned, in acceptance order (R339). -/
def State.observation (s : State) : List Word := s.responses.reverse.filterMap readValueOf

end Sys2Proof.Machine
end

