-- ==== Sys2Proof/Machine/Step.lean ====
section
/-! DEFINITION. Sys2Proof/Machine/Step.lean: one step of the machine, which takes the host's next input; and the placing of
one instruction where the step takes its next input from. -/
namespace Sys2Proof.Machine

/-- One step (R330). -/
def step (s : State) : Host.Outcome State Fault Refusal := s.takeInput

/-- `s` with the instruction of a table row's bits presented next (assumption 1, assumption 8): a command word as the wdata
of a CMD write, a bus access as itself. Bits that are no encoding leave `s` as it is. -/
def State.withFetchWord (s : State) (nbits w : Nat) : State :=
  match encodingOfTableWord nbits w with
  | none => s
  | some e => s.presentEncoding e

end Sys2Proof.Machine
end

