-- ==== Sys2Proof/Machine/Assembly.lean ====
section
/-! DEFINITION. Sys2Proof/Machine/Assembly.lean: the host's side: the registers by name (R30), the lines of the host assembly
language with their expansions (R108, R109), and the host's rendering of a digest (R246). -/
namespace Sys2Proof.Machine

/-- The registers a program sees, by name (R30). -/
inductive Reg where
  | id | param | cmd | status | dinLo | dinHi
  | dout (j : Fin 8)
  deriving DecidableEq, Repr

/-- The offset of a register (R30, R78). -/
def regOffset : Reg → BitVec 6
  | .id => 0x00
  | .param => 0x04
  | .cmd => 0x08
  | .status => 0x0C
  | .dinLo => 0x10
  | .dinHi => 0x14
  | .dout j => BitVec.ofNat 6 (0x20 + 4 * j.val)

/-- A line of the host assembly language (R108) or a pseudo-instruction (R109). -/
inductive AsmLine where
  /-- `rd REG`. -/
  | rd (r : Reg)
  /-- `wr REG, imm32`. -/
  | wr (r : Reg) (v : Word)
  /-- `nop`, `init`, `absorb n`, `digest`. -/
  | command (c : Command)
  /-- `din imm64`. -/
  | din (v : BitVec 64)
  /-- `feed b0 b1 … bm-1`. -/
  | feed (bytes : List Byte)
  /-- `readdigest`. -/
  | readDigest
  /-- `waitidle`, for a loop that reads STATUS n times: the loop itself is the host's (R109). -/
  | waitIdle (n : Nat)
  deriving DecidableEq, Repr

/-- The transaction of `rd REG` (R108). -/
def rdReg (r : Reg) : Transaction := { we := false, addr := regOffset r, wdata := 0 }

/-- The transaction of `wr REG, imm32` (R108). -/
def wrReg (r : Reg) (v : Word) : Transaction := { we := true, addr := regOffset r, wdata := v }

/-- `din imm64` (R109). -/
def dinLines (v : BitVec 64) : List Transaction := [wrReg .dinLo (dinLo v), wrReg .dinHi (dinHi v)]

/-- One chunk of at most 8 bytes: its bytes put in DIN, the unused high bytes 0, and absorbed (R109). -/
def feedChunk (chunk : List Byte) : List Transaction :=
  dinLines (laneOfBytes fun k => chunk.getD k.val 0) ++
    [wrReg .cmd (encodeCommand (.absorb (BitVec.ofNat 4 chunk.length)))]

/-- `feed` (R109): the bytes in chunks of 8, the last one shorter; no bytes expand to nothing. -/
def feedLines (bytes : List Byte) : List Transaction :=
  (List.range ((bytes.length + 7) / 8)).flatMap fun q => feedChunk ((bytes.drop (8 * q)).take 8)

/-- `readdigest` (R109). -/
def readDigestLines : List Transaction := (List.finRange 8).map fun j => rdReg (.dout j)

/-- The transactions a line stands for (R108, R109). -/
def AsmLine.expand : AsmLine → List Transaction
  | .rd r => [rdReg r]
  | .wr r v => [wrReg r v]
  | .command c => [wrReg .cmd (encodeCommand c)]
  | .din v => dinLines v
  | .feed bytes => feedLines bytes
  | .readDigest => readDigestLines
  | .waitIdle n => List.replicate n (rdReg .status)

/-- The host's inputs for the lines of a program, in order (R108, R82). -/
def assemble (lines : List AsmLine) : List HostInput := (lines.flatMap AsmLine.expand).map .present

/-- The lower-case hexadecimal digit of a nibble (R246). -/
def hexDigit (n : BitVec 4) : Char := "0123456789abcdef".toList.getD n.toNat '0'

/-- The 64 hexadecimal characters of a digest, each byte high nibble first (R246). -/
def hexDigest (d : Vector Byte 32) : List Char :=
  d.toList.flatMap fun b => [hexDigit (b.extractLsb' 4 4), hexDigit (b.extractLsb' 0 4)]

end Sys2Proof.Machine
end

