-- ==== Sys2Proof/Machine/Clock.lean ====
section
/-! DEFINITION. Sys2Proof/Machine/Clock.lean: the same block clock edge by clock edge (R72, R292, R320 to R334): the handshake
with its stalls, the acceptance edge of each instruction and the engine's rounds. `step` is the machine of R330, which
applies each transaction whole; this file is the hardware it stands for. -/
namespace Sys2Proof.Machine

/-- A STATUS read in the hardware: BUSY is PHASE ≠ IDLE in the acceptance cycle (R36, R240). -/
def State.readStatusClocked (s : State) : State :=
  ({ s with mayBusy := s.mayBusy && s.busy } : State).answerRead 0x0C (statusWord s.busy s)

/-- The acceptance edge of ABSORB n (R331): one that completes a block starts a permutation. -/
def acceptAbsorb (len : BitVec 4) (s : State) : Host.Outcome State Fault Refusal :=
  if !s.err && decide (len.toNat ≤ 8) && s.completesBlock len.toNat then .next ((s.startAbsorb len.toNat).endCommand true)
  else exec (.absorb len) s

/-- The acceptance edge of DIGEST (R331), which starts a permutation. -/
def acceptDigest (s : State) : Host.Outcome State Fault Refusal :=
  if s.err then exec .digest s else .next (s.startDigest.endCommand true)

/-- The acceptance edge of a CMD write (R230, R331). -/
def acceptWrCmd (c : Word) (s : State) : Host.Outcome State Fault Refusal :=
  match decodeCommand c with
  | .command .nop => exec .nop s
  | .command .init => exec .init s
  | .command (.absorb len) => acceptAbsorb len s
  | .command .digest => acceptDigest s
  | .error _ => exec (.wrCmd c) s

/-- What an instruction does at the edge at which it is accepted (R331): a command that starts a permutation leaves it
running, STATUS shows the hardware's BUSY, and every other instruction has its whole effect. -/
def acceptEdge (i : Instr) (s : State) : Host.Outcome State Fault Refusal :=
  match i with
  | .absorb len => acceptAbsorb len s
  | .digest => acceptDigest s
  | .wrCmd c => acceptWrCmd c s
  | .rdStatus => .next s.readStatusClocked
  | .nop => exec .nop s
  | .init => exec .init s
  | .rdId => exec .rdId s
  | .rdParam => exec .rdParam s
  | .rdDinLo => exec .rdDinLo s
  | .rdDinHi => exec .rdDinHi s
  | .rdDout0 => exec .rdDout0 s
  | .rdDout1 => exec .rdDout1 s
  | .rdDout2 => exec .rdDout2 s
  | .rdDout3 => exec .rdDout3 s
  | .rdDout4 => exec .rdDout4 s
  | .rdDout5 => exec .rdDout5 s
  | .rdDout6 => exec .rdDout6 s
  | .rdDout7 => exec .rdDout7 s
  | .wrDinLo v => exec (.wrDinLo v) s
  | .wrDinHi v => exec (.wrDinHi v) s

/-- Whether the block takes the transaction `t`, presented while rst = 0 (R72, R332 to R334): it does not only for a CMD write
or a DOUT read while BUSY = 1; a BusError never waits (R289). -/
def State.ready (t : Transaction) (s : State) : Bool :=
  match decodeTransaction t with
  | .instr i => !(s.busy && waitsForIdle i)
  | .rejected _ => true

/-- The port ready in a cycle with the host's input `input` (R71): 0 while rst = 1 (R320), and otherwise 0 only in the stall
cases of a presented transaction (R72). -/
def State.readyPort (input : HostInput) (s : State) : Bool :=
  match input with
  | .rst _ => false
  | .idle => true
  | .present t => s.ready t

/-- The transaction presented at an edge: the ports req, we, addr and wdata (R71). -/
def HostInput.presented : HostInput → Option Transaction
  | .rst held => held
  | .idle => none
  | .present t => some t

/-- The transaction accepted at an edge, if any: req = 1 and ready = 1 (R72). -/
def State.accepted (input : HostInput) (s : State) : Option Transaction :=
  if s.readyPort input then input.presented else none

/-- An accepted transaction at its acceptance edge. -/
def State.acceptTransactionEdge (t : Transaction) (s : State) : Host.Outcome State Fault Refusal :=
  match decodeTransaction t with
  | .instr i => acceptEdge i s
  | .rejected _ => .next (s.takeBusError t)

/-- The engine's rounds at an edge at which it was already running (R331). -/
def engineAfter (rpc : Nat) (running : Bool) (o : Host.Outcome State Fault Refusal) : Host.Outcome State Fault Refusal :=
  match o with
  | .next s => .next (if running then s.engineEdge rpc else s)
  | .fault r => .fault r
  | .refused r => .refused r

/-- One clock edge of the block, with `rpc` rounds to a cycle. A reset edge wins over everything and accepts nothing (R292,
R320). A transaction that finds ready = 0 is held (R332, R333). A transaction accepted at this edge sees the state before it, and an engine
that was running applies its rounds at the same edge (assumption 15). -/
def clockEdge (rpc : Config.RoundsPerCycle) (s : State) : Host.Outcome State Fault Refusal :=
  match s.host with
  | [] => .next (s.engineEdge rpc.toNat)
  | .idle :: rest => .next (({ s with host := rest } : State).engineEdge rpc.toNat)
  | .rst _ :: rest => .next ({ s with host := rest } : State).resetEdge
  | .present t :: rest =>
    if s.readyPort (.present t) then engineAfter rpc.toNat s.busy (({ s with host := rest } : State).acceptTransactionEdge t)
    else .next (s.engineEdge rpc.toNat)

/-- `n` clock edges, stopping at the first fault or refusal. -/
def clockEdges (rpc : Config.RoundsPerCycle) : Nat → State → Host.Outcome State Fault Refusal
  | 0, s => .next s
  | n + 1, s =>
    match clockEdge rpc s with
    | .next t => clockEdges rpc n t
    | .fault r => .fault r
    | .refused r => .refused r

end Sys2Proof.Machine
end

