-- ==== Sys2Proof/Safety.lean ====
section
/-! DEFINITION. Sys2Proof/Safety.lean: the terms in which claims about the block are made: the invariant of its state, the
message a session holds, when a host may trust DOUT, what of the state is visible, and the view in which the
clocked block and the atomic machine are compared. -/
namespace Sys2Proof.Machine

/-- What every state the block can reach satisfies. -/
structure State.Inv (s : State) : Prop where
  /-- "While ERR = 0, ERRCODE = 0", and an error has a code (R38, R282). -/
  errCodeMatches : s.err = false ↔ s.errcode = 0
  /-- ERRCODE 4..15 is never produced (R281). -/
  errCodeKnown : s.errcode.toNat ≤ 3
  /-- An idle engine is at round 0 with nothing pending (R45, R331). -/
  idleEngine : s.phase = .idle → s.round = 0 ∧ s.pend = []
  /-- PEND is used by an ABSORB only (R45). -/
  digestEngine : s.phase = .permW → s.pend = []
  /-- PEND holds at most 7 bytes, and BUF_LEN already counts them (R45, R331). -/
  absorbEngine : s.phase = .permS → s.bufLen.val = s.pend.length ∧ s.pend.length ≤ 7
  /-- BUSY = 1 only where MAYBUSY = 1, which is why the draws of R338 cover the hardware. -/
  busyKnown : s.phase ≠ .idle → s.mayBusy = true
  /-- When DIGEST_VALID = 1, DOUTB is the digest of the bytes of the session (R37), once the engine is idle. -/
  digestCurrent : s.digestValid = true → s.waitIdle.doutb = digestOf s.waitIdle.S s.waitIdle.pending

/-- The session has absorbed exactly the bytes of M: S and the pending bytes are what the source's absorb gives for M
from the empty session (R185, R193). -/
def State.Holds (M : List Byte) (s : State) : Prop := spongeAbsorb LaneMatrix.zero [] M = (s.S, s.pending)

/-- When a host may take DOUT for the digest of its message: ERR = 0 and DIGEST_VALID = 1 (R287). -/
def State.digestTrusted (s : State) : Bool := !s.err && s.digestValid

/-- Two states with an idle engine that differ at most in S, BUF and W: what no bus access shows (R46). -/
structure SameVisible (s t : State) : Prop where
  din : s.din = t.din
  doutb : s.doutb = t.doutb
  bufLen : s.bufLen = t.bufLen
  digestValid : s.digestValid = t.digestValid
  err : s.err = t.err
  errcode : s.errcode = t.errcode
  mayBusy : s.mayBusy = t.mayBusy
  host : s.host = t.host
  draws : s.draws = t.draws
  responses : s.responses = t.responses
  idleLeft : s.phase = .idle
  idleRight : t.phase = .idle

/-- A response with the BUSY bit of a STATUS read cleared: what does not depend on time (R36, R330). -/
def maskBusyBit : Response → Response
  | .read off v e => .read off (if off = 0x0C then v &&& 0xFFFFFFFE else v) e
  | .write off e => .write off e

/-- What of a state does not depend on time (R330): the state once the engine is idle, without MAYBUSY, the count of
draws and the BUSY bits of the answers. -/
def State.timelessView (s : State) : State :=
  { s.waitIdle with mayBusy := false, draws := 0, responses := s.responses.map maskBusyBit }

/-- The stream bytes of a list of ABSORB commands, each with the DIN it samples (R233). -/
def chunkBytes (cs : List (BitVec 64 × BitVec 4)) : List Byte := cs.flatMap fun c => dinBytes c.2.toNat c.1

/-- The host lines that absorb them: DIN written, then ABSORB (R108, R109). -/
def chunkLines (cs : List (BitVec 64 × BitVec 4)) : List AsmLine :=
  cs.flatMap fun c => [.din c.1, .command (.absorb c.2)]

end Sys2Proof.Machine
end

