-- ==== Sys2Proof/Certificates/Slice0/Obligations.lean ====
section
/-! DEFINITION. Sys2Proof/Certificates/Slice0/Obligations.lean: the statements for the provers. A statement of the form
`∃ t, exec i s = .next t ∧ t = { s with … }` says at once that the instruction completes, what it writes and that it
changes nothing else; a field set to `t`'s own value in it is said in the clauses that follow. -/

open Sys2Proof Sys2Proof.Machine

/-! ### Encodings -/

/-- R110: the worked command words decode as that rule lists them. -/
def Obligations.WorkedCommandWordsDecode : Prop :=
  decodeCommand 0x00000000 = .command .nop ∧
  decodeCommand 0x00000001 = .command .init ∧
  decodeCommand 0x00000002 = .command (.absorb 0) ∧
  decodeCommand 0x00000032 = .command (.absorb 3) ∧
  decodeCommand 0x00000082 = .command (.absorb 8) ∧
  decodeCommand 0x00000003 = .command .digest ∧
  decodeCommand 0x00000004 = .error .illegalOp ∧
  decodeCommand 0x000001F5 = .error .illegalOp ∧
  decodeCommand 0x00000102 = .error .reservedBits ∧
  decodeCommand 0x00000013 = .error .reservedBits ∧
  decodeCommand 0x00000011 = .error .reservedBits ∧
  decodeCommand 0x00000092 = .error .badLen ∧
  decodeCommand 0x000000F2 = .error .badLen ∧
  decodeCommand 0x80000092 = .error .reservedBits

/-- R100, R101, R106: words of every family, written out bit by bit, decode to their instructions. Where a bus access stands in
the number of a table row is the model's choice (assumption 8). -/
def Obligations.WrittenOutWordsDecode : Prop :=
  decodeTableWord 32 0b0000000000000000000000000000_0000 = some .nop ∧
  decodeTableWord 32 0b0000000000000000000000000000_0001 = some .init ∧
  decodeTableWord 32 0b000000000000000000000000_0101_0010 = some (.absorb 5) ∧
  decodeTableWord 32 0b0000000000000000000000000000_0011 = some .digest ∧
  decodeTableWord 8 0b0_000000 = some .rdId ∧
  decodeTableWord 8 0b0_001100 = some .rdStatus ∧
  decodeTableWord 8 0b0_110100 = some .rdDout5 ∧
  decodeTableWord 8 0b1_001000 = some (.wrCmd 0) ∧
  decodeTableWord 40 (0xDEADBEEF * 256 + 0b1_010100) = some (.wrDinHi 0xDEADBEEF) ∧
  decodeTableWord 8 0b0_001000 = none

/-- R104: the checks in their order, said of the number c: op = c mod 16, len = c / 16 mod 16, rsvd = c / 256. -/
def Obligations.CommandChecksRunInOrder : Prop :=
  ∀ c : Word,
    (4 ≤ c.toNat % 16 → decodeCommand c = .error .illegalOp) ∧
    (c.toNat % 16 < 4 → c.toNat / 256 ≠ 0 → decodeCommand c = .error .reservedBits) ∧
    (c.toNat % 16 < 4 → c.toNat / 256 = 0 → c.toNat % 16 ≠ 2 → c.toNat / 16 % 16 ≠ 0 →
      decodeCommand c = .error .reservedBits) ∧
    (c.toNat % 16 = 2 → c.toNat / 256 = 0 → 8 < c.toNat / 16 % 16 → decodeCommand c = .error .badLen) ∧
    (c.toNat % 16 = 0 → c.toNat / 16 = 0 → decodeCommand c = .command .nop) ∧
    (c.toNat % 16 = 1 → c.toNat / 16 = 0 → decodeCommand c = .command .init) ∧
    (c.toNat % 16 = 2 → c.toNat / 256 = 0 → c.toNat / 16 % 16 ≤ 8 →
      decodeCommand c = .command (.absorb (BitVec.ofNat 4 (c.toNat / 16 % 16)))) ∧
    (c.toNat % 16 = 3 → c.toNat / 16 = 0 → decodeCommand c = .command .digest)

/-- R105: the legal command words are exactly the twelve listed; every other word raises a CmdError with the code that the
decode gives; no two words are the same command. MAYBUSY is 0 after the CmdError by R338 (assumption 14, DEDUCED). -/
def Obligations.LegalCommandWordsAreTheTwelve : Prop :=
  (∀ c : Word, (∃ cmd, decodeCommand c = .command cmd) ↔
    c ∈ [0x00000000, 0x00000001, 0x00000003, 0x00000002, 0x00000012, 0x00000022, 0x00000032, 0x00000042, 0x00000052,
      0x00000062, 0x00000072, (0x00000082 : Word)]) ∧
  (∀ (c : Word) (s : State), s.err = false → (∀ cmd, decodeCommand c ≠ .command cmd) →
    ∃ code, decodeCommand c = .error code ∧
      exec (.wrCmd c) s = .next { s with
        err := true
        errcode := errorCodeBits code
        mayBusy := false
        responses := .write 0x08 false :: s.responses }) ∧
  (∀ (c c' : Word) (cmd : Command), decodeCommand c = .command cmd → decodeCommand c' = .command cmd → c = c')

/-- R106, R288: the sixteen legal access keys, what each is, and the four groups of the 112 others. -/
def Obligations.LegalKeysAreTheSixteen : Prop :=
  (∀ w, decodeKey 0x00 w = some .rdId ∧ decodeKey 0x04 w = some .rdParam ∧ decodeKey 0x0C w = some .rdStatus ∧
    decodeKey 0x10 w = some .rdDinLo ∧ decodeKey 0x14 w = some .rdDinHi ∧ decodeKey 0x20 w = some .rdDout0 ∧
    decodeKey 0x24 w = some .rdDout1 ∧ decodeKey 0x28 w = some .rdDout2 ∧ decodeKey 0x2C w = some .rdDout3 ∧
    decodeKey 0x30 w = some .rdDout4 ∧ decodeKey 0x34 w = some .rdDout5 ∧ decodeKey 0x38 w = some .rdDout6 ∧
    decodeKey 0x3C w = some .rdDout7 ∧ decodeKey 0x48 w = some (.wrCmd w) ∧ decodeKey 0x50 w = some (.wrDinLo w) ∧
    decodeKey 0x54 w = some (.wrDinHi w)) ∧
  (∀ t : Transaction, (∃ i, decodeTransaction t = .instr i) ↔
    (if t.we then 64 else 0) + t.addr.toNat ∈
      [0x00, 0x04, 0x0C, 0x10, 0x14, 0x20, 0x24, 0x28, 0x2C, 0x30, 0x34, 0x38, 0x3C, 0x48, 0x50, 0x54]) ∧
  (∀ t : Transaction, (∀ i, decodeTransaction t ≠ .instr i) →
    (t.addr.toNat % 4 ≠ 0 ∧ decodeTransaction t = .rejected (.busError t.addr .misaligned)) ∨
    (t.we = false ∧ t.addr.toNat = 0x08 ∧ decodeTransaction t = .rejected (.busError t.addr .readOfCmd)) ∨
    ((t.addr.toNat = 0x18 ∨ t.addr.toNat = 0x1C) ∧ decodeTransaction t = .rejected (.busError t.addr .reservedOffset)) ∨
    (t.we = true ∧ (t.addr.toNat ∈ [0x00, 0x04, 0x0C] ∨ 0x20 ≤ t.addr.toNat) ∧
      decodeTransaction t = .rejected (.busError t.addr .writeToReadOnly)))

/-- Every well-formed instruction is read back from its encoding, with every operand. -/
def Obligations.DecodeReadsBackEncode : Prop :=
  ∀ i : Instr, i.wf = true → decode (encode i) = .instr i

/-- What either decoder reads is well-formed and encodes to the same word or transaction; of a read, all but the wdata that the
block does not look at. That `encode` gives a read wdata 0 is the model's choice (assumption 11, DESIGN CHOICE), no rule of
the spec. -/
def Obligations.EncodeReadsBackDecode : Prop :=
  (∀ (c : Word) (cmd : Command), decodeCommand c = .command cmd →
    cmd.toInstr.wf = true ∧ encode cmd.toInstr = .cmd c ∧ encodeCommand cmd = c) ∧
  (∀ (t : Transaction) (i : Instr), decodeTransaction t = .instr i →
    i.wf = true ∧ encode i = .bus { t with wdata := if t.we then t.wdata else 0 })

/-! ### Steps -/

/-- When the presented transaction decodes to an instruction, a step runs it: after the wait for BUSY = 0 for a CMD write
(R332) or a DOUT read (R333), and without any wait for every other access (R334). That a step takes the first entry of
`host` is the model's choice (assumption 1). -/
def Obligations.StepRunsTheDecodedInstruction : Prop :=
  ∀ (s : State) (t : Transaction) (rest : List HostInput) (i : Instr),
    s.host = .present t :: rest → decodeTransaction t = .instr i →
    ((t.we = true ∧ t.addr = 0x08) ∨ (t.we = false ∧ 0x20 ≤ t.addr.toNat) →
      step s = exec i ({ s with host := rest } : State).waitIdle ∧
      ({ s with host := rest } : State).waitIdle.busy = false) ∧
    (¬((t.we = true ∧ t.addr = 0x08) ∨ (t.we = false ∧ 0x20 ≤ t.addr.toNat)) →
      step s = exec i { s with host := rest })

/-- A CMD write of a legal word has the meaning of its command, and a presented encoding of a well-formed instruction is
run by the next step from an idle block (R230). -/
def Obligations.PresentedEncodingRuns : Prop :=
  (∀ (c : Word) (cmd : Command) (s : State), decodeCommand c = .command cmd →
    exec (.wrCmd c) s = exec cmd.toInstr s) ∧
  (∀ (i : Instr) (s : State), i.wf = true → s.phase = .idle → step (s.presentEncoding (encode i)) = exec i s)

/-- R289: a transaction with an illegal key is answered at once, whatever PHASE is, with err = 1 and, for a read,
rdata = 0; nothing else changes. That the outcome is a next state is assumption 2 (DEDUCED). -/
def Obligations.BusErrorIsAnsweredAndChangesNothing : Prop :=
  ∀ (s : State) (t : Transaction) (rest : List HostInput) (r : Reject),
    s.host = .present t :: rest → decodeTransaction t = .rejected r →
    s.ready t = true ∧
    step s = .next { s with
      host := rest
      responses := (if t.we then .write t.addr true else .read t.addr 0x00000000 true) :: s.responses }

/-- R49: the reset value of every piece of state. -/
def Obligations.ResetValues : Prop :=
  (∀ x y : Fin 5, State.reset.S[x][y] = 0 ∧ State.reset.W[x][y] = 0) ∧
  (∀ i : Fin 135, State.reset.buf[i] = 0) ∧
  State.reset.bufLen = 0 ∧ State.reset.din = 0 ∧
  (∀ i : Fin 32, State.reset.doutb[i] = 0) ∧
  State.reset.busy = false ∧ State.reset.digestValid = false ∧ State.reset.err = false ∧ State.reset.errcode = 0 ∧
  State.reset.phase = .idle ∧ State.reset.round = 0 ∧ State.reset.pend = [] ∧ State.reset.mayBusy = false

/-- R320, R321, R292: at a reset edge the block drives ready = 0 and accepts nothing, whatever is presented, and takes its
reset state whatever runs, in the atomic machine and in the clocked block; any transaction can be accepted at the next edge.
The host's remaining inputs and what it was answered so far stay (assumption 13, the model's choice). -/
def Obligations.ResetEdgeResetsTheBlock : Prop :=
  ∀ (s : State) (held : Option Transaction) (rest : List HostInput), s.host = .rst held :: rest →
    s.readyPort (.rst held) = false ∧ s.accepted (.rst held) = none ∧
    step s = .next { State.reset with host := rest, draws := s.draws, responses := s.responses } ∧
    (∀ rpc, clockEdge rpc s = .next { State.reset with host := rest, draws := s.draws, responses := s.responses }) ∧
    ∀ t : Transaction,
      ({ State.reset with host := rest, draws := s.draws, responses := s.responses } : State).accepted (.present t) = some t

/-- The block never stops: every step and every clock edge answers a next state (R280, R289; that neither error is a stop is
assumptions 2 and 3, DEDUCED), and a step takes exactly one input of the host (assumption 1, the model's choice). -/
def Obligations.EveryStepAnswersNext : Prop :=
  ∀ s : State,
    (∃ t, step s = .next t ∧ t.host = s.host.tail) ∧
    ∀ rpc, ∃ t, clockEdge rpc s = .next t ∧ (t.host = s.host.tail ∨ t.host = s.host)

/-- R72, R320, R332, R333, R334: ready is 0 while rst = 1 and otherwise only for a CMD write or a DOUT read presented while
BUSY = 1; what is accepted is what is presented with rst = 0 and ready = 1. -/
def Obligations.OnlyCommandWritesAndDoutReadsWait : Prop :=
  (∀ (s : State) (t : Transaction), s.ready t = false ↔
    s.busy = true ∧
      ((t.we = true ∧ t.addr.toNat = 0x08) ∨ (t.we = false ∧ 0x20 ≤ t.addr.toNat ∧ t.addr.toNat % 4 = 0))) ∧
  (∀ (s : State) (input : HostInput), s.readyPort input = false ↔
    (∃ held, input = .rst held) ∨
    (s.busy = true ∧ ∃ t, input = .present t ∧
      ((t.we = true ∧ t.addr.toNat = 0x08) ∨ (t.we = false ∧ 0x20 ≤ t.addr.toNat ∧ t.addr.toNat % 4 = 0)))) ∧
  (∀ (s : State) (input : HostInput) (t : Transaction),
    s.accepted input = some t ↔ input = .present t ∧ s.ready t = true)

/-! ### Register accesses -/

/-- R238, R239 (and the constants of R32, R33): reads of ID and PARAM, their keys, that they do not wait, and their values. -/
def Obligations.IdAndParamReads : Prop :=
  (∀ (s : State) (w : Word),
    decodeTransaction { we := false, addr := 0x00, wdata := w } = .instr .rdId ∧
    s.ready { we := false, addr := 0x00, wdata := w } = true ∧
    decodeTransaction { we := false, addr := 0x04, wdata := w } = .instr .rdParam ∧
    s.ready { we := false, addr := 0x04, wdata := w } = true) ∧
  (∀ s : State, exec .rdId s = .next { s with responses := .read 0x00 0x4B323536 false :: s.responses }) ∧
  (∀ s : State, ∃ v : Word,
    exec .rdParam s = .next { s with responses := .read 0x04 v false :: s.responses } ∧
    v = paramWord Config.roundsPerCycle) ∧
  (∀ rpc : Config.RoundsPerCycle,
    (paramWord rpc).toNat = 0x01 * 2 ^ 24 + 0x20 * 2 ^ 16 + 0x88 * 2 ^ 8 + rpc.toNat ∧
    rpc.toNat ∈ [1, 2, 3, 4, 6, 8, 12, 24]) ∧
  paramWord .r1 = 0x01208801

/-- R35, R39, R240 and the STATUS part of R338: the fields of STATUS; BUSY reads 0 while MAYBUSY = 0, else a draw, of which
nothing is assumed; a draw of 0 clears MAYBUSY and (the model's choice, assumption 12) finds the engine idle. The read
does not wait. -/
def Obligations.StatusRead : Prop :=
  (∀ (s : State) (w : Word),
    decodeTransaction { we := false, addr := 0x0C, wdata := w } = .instr .rdStatus ∧
    s.ready { we := false, addr := 0x0C, wdata := w } = true) ∧
  ∀ s : State, ∃ (busy : Bool) (v : Word),
    v.toNat = s.bufLen.val * 2 ^ 8 + s.errcode.toNat * 2 ^ 4 + s.err.toNat * 4 + s.digestValid.toNat * 2 + busy.toNat ∧
    (s.mayBusy = false → busy = false ∧
      exec .rdStatus s = .next { s with responses := .read 0x0C v false :: s.responses }) ∧
    (s.mayBusy = true → busy = true →
      exec .rdStatus s = .next { s with draws := s.draws + 1, responses := .read 0x0C v false :: s.responses }) ∧
    (s.mayBusy = true → busy = false →
      exec .rdStatus s = .next { s.waitIdle with
        mayBusy := false
        draws := s.draws + 1
        responses := .read 0x0C v false :: s.responses })

/-- R236, R237, R241, R242: the halves of DIN are written one at a time and read back, without any wait; nothing else changes. -/
def Obligations.DinAccesses : Prop :=
  (∀ (s : State) (v : Word),
    decodeTransaction { we := true, addr := 0x10, wdata := v } = .instr (.wrDinLo v) ∧
    s.ready { we := true, addr := 0x10, wdata := v } = true ∧
    decodeTransaction { we := true, addr := 0x14, wdata := v } = .instr (.wrDinHi v) ∧
    s.ready { we := true, addr := 0x14, wdata := v } = true ∧
    decodeTransaction { we := false, addr := 0x10, wdata := v } = .instr .rdDinLo ∧
    s.ready { we := false, addr := 0x10, wdata := v } = true ∧
    decodeTransaction { we := false, addr := 0x14, wdata := v } = .instr .rdDinHi ∧
    s.ready { we := false, addr := 0x14, wdata := v } = true) ∧
  ∀ (s : State) (v : Word),
    (∃ d : BitVec 64, exec (.wrDinLo v) s = .next { s with din := d, responses := .write 0x10 false :: s.responses } ∧
      d.extractLsb' 0 32 = v ∧ d.extractLsb' 32 32 = s.din.extractLsb' 32 32) ∧
    (∃ d : BitVec 64, exec (.wrDinHi v) s = .next { s with din := d, responses := .write 0x14 false :: s.responses } ∧
      d.extractLsb' 0 32 = s.din.extractLsb' 0 32 ∧ d.extractLsb' 32 32 = v) ∧
    exec .rdDinLo s = .next { s with responses := .read 0x10 (s.din.extractLsb' 0 32) false :: s.responses } ∧
    exec .rdDinHi s = .next { s with responses := .read 0x14 (s.din.extractLsb' 32 32) false :: s.responses }

/-- R43, R76, R243: a read of DOUTj waits while BUSY = 1 and returns digest bytes 4j .. 4j+3, the first in the low-order
byte, whatever DIGEST_VALID is; accepted with BUSY = 0, it clears MAYBUSY (R338). -/
def Obligations.DoutReads : Prop :=
  (∀ (s : State) (j : Fin 8) (w : Word),
    decodeTransaction { we := false, addr := BitVec.ofNat 6 (0x20 + 4 * j.val), wdata := w } =
      .instr #v[.rdDout0, .rdDout1, .rdDout2, .rdDout3, .rdDout4, .rdDout5, .rdDout6, .rdDout7][j] ∧
    s.ready { we := false, addr := BitVec.ofNat 6 (0x20 + 4 * j.val), wdata := w } = !s.busy) ∧
  ∀ (s : State) (j : Fin 8), ∃ v : Word,
    exec #v[.rdDout0, .rdDout1, .rdDout2, .rdDout3, .rdDout4, .rdDout5, .rdDout6, .rdDout7][j] s =
      .next { s with mayBusy := false, responses := .read (BitVec.ofNat 6 (0x20 + 4 * j.val)) v false :: s.responses } ∧
    ∀ k : Fin 4, v.extractLsb' (8 * k.val) 8 = s.doutb[4 * j.val + k.val]

/-- R75: where the engine is idle, a read changes nothing but what stands for BUSY and the answers, so that it returns the same
value when repeated; a write of DIN is idempotent. -/
def Obligations.ReadsHaveNoSideEffect : Prop :=
  (∀ (i : Instr) (s t : State),
    i ∈ [.rdId, .rdParam, .rdStatus, .rdDinLo, .rdDinHi, .rdDout0, .rdDout1, .rdDout2, .rdDout3, .rdDout4, .rdDout5,
      .rdDout6, .rdDout7] →
    s.phase = .idle → exec i s = .next t →
    t = { s with mayBusy := t.mayBusy, draws := t.draws, responses := t.responses } ∧
    ∃ r, t.responses = r :: s.responses ∧
      ∀ u, i ≠ .rdStatus → exec i t = .next u → u.responses = r :: r :: s.responses) ∧
  (∀ (v : Word) (s t u : State),
    (exec (.wrDinLo v) s = .next t → exec (.wrDinLo v) t = .next u → u = { t with responses := u.responses }) ∧
    (exec (.wrDinHi v) s = .next t → exec (.wrDinHi v) t = .next u → u = { t with responses := u.responses }))

/-! ### Commands -/

/-- R231: a NOP, executed or discarded, changes nothing; any other word with OP = 0 is a CmdError (RESERVED_BITS). MAYBUSY is 0
after each of these CMD writes, which start no permutation, by R338; for the discarded NOP and the CmdError that is
assumption 14 (DEDUCED). -/
def Obligations.NopChangesNothing : Prop :=
  (∀ s : State,
    exec .nop s = .next { s with mayBusy := false, responses := .write 0x08 false :: s.responses } ∧
    exec (.wrCmd 0x00000000) s = exec .nop s) ∧
  (∀ (c : Word) (s : State), s.err = false → c.toNat % 16 = 0 → c ≠ 0x00000000 →
    exec (.wrCmd c) s = .next { s with
      err := true
      errcode := 2
      mayBusy := false
      responses := .write 0x08 false :: s.responses })

/-- R232: INIT starts a new session, in the error state too, and leaves DIN, W and the engine as they are; from the reset state
it changes nothing (R323). Any other word with OP = 1 is a CmdError (RESERVED_BITS) and, while ERR = 1, is discarded.
MAYBUSY is 0 after each by R338; for the CmdError and the discarded word that is assumption 14 (DEDUCED). That every word
but INIT is discarded while ERR = 1 is said by ErrorStateDiscardsCommands. -/
def Obligations.InitStartsANewSession : Prop :=
  exec .init State.reset = .next { State.reset with responses := [.write 0x08 false] } ∧
  (∀ (c : Word) (s : State), c.toNat % 16 = 1 → c ≠ 0x00000001 →
    exec (.wrCmd c) s = .next { s with
      err := true
      errcode := if s.err then s.errcode else 2
      mayBusy := false
      responses := .write 0x08 false :: s.responses }) ∧
  ∀ s : State, ∃ t, exec .init s = .next t ∧ exec (.wrCmd 0x00000001) s = .next t ∧
    t = { s with
      S := t.S
      buf := t.buf
      bufLen := 0
      doutb := t.doutb
      digestValid := false
      err := false
      errcode := 0
      mayBusy := false
      responses := .write 0x08 false :: s.responses } ∧
    (∀ x y : Fin 5, t.S[x][y] = 0) ∧ (∀ i : Fin 135, t.buf[i] = 0) ∧ (∀ i : Fin 32, t.doutb[i] = 0)

/-- R186: AbsorbByte at the boundary and before it, its frame, and that over a byte string it leaves what the source's absorb
returns. That BUF keeps its bytes at the boundary is the model's choice (assumption 6). -/
def Obligations.AbsorbByteIsTheSourcesAbsorb : Prop :=
  (∀ (b : Byte) (s : State), s.bufLen.val = 135 →
    absorbByte b s = { s with S := keccakF (absorbBlock s.S (blockOf (s.buf.toList ++ [b]))), bufLen := 0 }) ∧
  (∀ (b : Byte) (s : State), s.bufLen.val < 135 → ∃ t, absorbByte b s = t ∧
    t = { s with buf := t.buf, bufLen := t.bufLen } ∧ t.bufLen.val = s.bufLen.val + 1 ∧
    ∀ i : Fin 135, t.buf[i] = if i.val = s.bufLen.val then b else s.buf[i]) ∧
  (∀ (data : List Byte) (s : State),
    spongeAbsorb s.S s.pending data = ((absorbBytes data s).S, (absorbBytes data s).pending))

/-- R233: ABSORB n feeds the first n bytes of DIN, as the source's absorb takes them; BUF_LEN is (BUF_LEN + n) mod 136;
DIGEST_VALID is cleared when n ≥ 1; a permutation is started exactly when a block completes, and MAYBUSY says so by R338;
the rest is unchanged. A set RSVD bit (RESERVED_BITS) or LEN = 9..15 (BAD_LEN) is a CmdError with no bytes absorbed;
MAYBUSY is 0 after it by R338 (assumption 14, DEDUCED). -/
def Obligations.AbsorbFeedsTheBytesOfDin : Prop :=
  (∀ (c : Word) (s : State), s.err = false → c.toNat % 16 = 2 → (c.toNat / 256 ≠ 0 ∨ 8 < c.toNat / 16 % 16) →
    exec (.wrCmd c) s = .next { s with
      err := true
      errcode := if c.toNat / 256 = 0 then 3 else 2
      mayBusy := false
      responses := .write 0x08 false :: s.responses }) ∧
  ∀ (len : BitVec 4) (s : State), len.toNat ≤ 8 → s.err = false →
    ∃ t, exec (.absorb len) s = .next t ∧ exec (.wrCmd (BitVec.ofNat 32 (len.toNat * 16 + 2))) s = .next t ∧
      t = { s with
        S := t.S
        buf := t.buf
        bufLen := t.bufLen
        digestValid := if len.toNat = 0 then s.digestValid else false
        mayBusy := decide (136 ≤ s.bufLen.val + len.toNat)
        responses := .write 0x08 false :: s.responses } ∧
      (t.S, t.pending) =
        spongeAbsorb s.S s.pending ((List.range len.toNat).map fun k => s.din.extractLsb' (8 * k) 8) ∧
      t.bufLen.val = (s.bufLen.val + len.toNat) % 136

/-- R234: DIGEST permutes the padded copy and shows its first 32 bytes, with S, BUF and BUF_LEN unchanged, and MAYBUSY is 1 by
R338; any other word with OP = 3 is a CmdError (RESERVED_BITS), after which MAYBUSY is 0 by R338 (assumption 14, DEDUCED).
That W keeps the permuted copy is assumption 7 (DEDUCED). -/
def Obligations.DigestShowsThePaddedCopy : Prop :=
  (∀ (c : Word) (s : State), s.err = false → c.toNat % 16 = 3 → c ≠ 0x00000003 →
    exec (.wrCmd c) s = .next { s with
      err := true
      errcode := 2
      mayBusy := false
      responses := .write 0x08 false :: s.responses }) ∧
  ∀ s : State, s.err = false →
    ∃ t, exec .digest s = .next t ∧ exec (.wrCmd 0x00000003) s = .next t ∧
      t = { s with
        W := keccakF (absorbBlock s.S (blockOf (s.buf.toList.take s.bufLen.val ++ pad s.bufLen.val 136)))
        doutb := t.doutb
        digestValid := true
        mayBusy := true
        responses := .write 0x08 false :: s.responses } ∧
      ∀ i : Fin 32, t.doutb[i] = (ser t.W)[i.val]

/-- R245, R194: a second DIGEST leaves DOUTB, S, BUF and BUF_LEN as the first left them. -/
def Obligations.SecondDigestChangesNothing : Prop :=
  ∀ s t u : State, s.err = false → exec .digest s = .next t → exec .digest t = .next u →
    u = { t with responses := u.responses } ∧ t.S = s.S ∧ t.buf = s.buf ∧ t.bufLen = s.bufLen

/-- R282, R286: a malformed word raises a CmdError that records its code (R281) and has no other effect. MAYBUSY is 0 after it
by R338, which is assumption 14 (DEDUCED), no word of R282. -/
def Obligations.MalformedWordRaisesCmdError : Prop :=
  ∀ (c : Word) (code : ErrorCode) (s : State), s.err = false → decodeCommand c = .error code →
    exec (.wrCmd c) s = .next { s with
      err := true
      errcode := match code with | .illegalOp => 1 | .reservedBits => 2 | .badLen => 3
      mayBusy := false
      responses := .write 0x08 false :: s.responses }

/-- The model's choice (assumption 10, DEDUCED): the ill-formed term ABSORB 9..15 acts as the word that spells it, a CmdError
(BAD_LEN). MAYBUSY is 0 after it by R338 (assumption 14, DEDUCED). -/
def Obligations.IllFormedAbsorbRaisesBadLen : Prop :=
  ∀ (len : BitVec 4) (s : State), s.err = false → 8 < len.toNat →
    exec (.absorb len) s = .next { s with
      err := true
      errcode := 3
      mayBusy := false
      responses := .write 0x08 false :: s.responses } ∧
    exec (.wrCmd (BitVec.ofNat 32 (len.toNat * 16 + 2))) s = exec (.absorb len) s

/-- R284: while ERR = 1 the word 0x00000001 executes INIT, and every other word is discarded with no effect. MAYBUSY is 0 after
either by R338; for the discarded word that is assumption 14 (DEDUCED), no word of R284. -/
def Obligations.ErrorStateDiscardsCommands : Prop :=
  ∀ s : State, s.err = true →
    exec (.wrCmd 0x00000001) s = exec .init s ∧
    (∃ t, exec .init s = .next t ∧ t.err = false ∧ t.errcode = 0) ∧
    (∀ c : Word, c ≠ 0x00000001 →
      exec (.wrCmd c) s = .next { s with mayBusy := false, responses := .write 0x08 false :: s.responses }) ∧
    (∀ i : Instr, i = .nop ∨ i = .digest ∨ (∃ len, i = .absorb len) →
      exec i s = .next { s with mayBusy := false, responses := .write 0x08 false :: s.responses })

/-- R38, R285: only INIT clears ERR and ERRCODE, and a recorded code is never replaced by another. -/
def Obligations.OnlyInitLeavesTheErrorState : Prop :=
  ∀ (i : Instr) (s t : State), s.err = true → exec i s = .next t →
    (t.err = true ∧ t.errcode = s.errcode) ∨
    ((i = .init ∨ i = .wrCmd 0x00000001) ∧ t.err = false ∧ t.errcode = 0)

/-- R37: what can change DIGEST_VALID, over all instructions. -/
def Obligations.DigestValidTransitions : Prop :=
  ∀ (i : Instr) (s t : State), exec i s = .next t → t.digestValid ≠ s.digestValid →
    (t.digestValid = true ∧ s.err = false ∧ (i = .digest ∨ i = .wrCmd 0x00000003)) ∨
    (t.digestValid = false ∧ (i = .init ∨ i = .wrCmd 0x00000001)) ∨
    (t.digestValid = false ∧ s.err = false ∧
      ∃ len : BitVec 4, 1 ≤ len.toNat ∧ len.toNat ≤ 8 ∧
        (i = .absorb len ∨ i = .wrCmd (BitVec.ofNat 32 (len.toNat * 16 + 2))))

/-- R42: no command writes DIN, over all instructions. -/
def Obligations.OnlyHostWritesChangeDin : Prop :=
  ∀ (i : Instr) (s t : State), exec i s = .next t → t.din ≠ s.din → ∃ v, i = .wrDinLo v ∨ i = .wrDinHi v

/-- R40, R43: with the engine idle, only an executed ABSORB or INIT changes S or BUF_LEN, and only an executed DIGEST or INIT
changes DOUTB, over all instructions. -/
def Obligations.OnlyCommandsChangeTheSession : Prop :=
  ∀ (i : Instr) (s t : State), s.phase = .idle → exec i s = .next t →
    (t.S ≠ s.S ∨ t.bufLen ≠ s.bufLen →
      i = .init ∨ i = .wrCmd 0x00000001 ∨
      (s.err = false ∧ ∃ len : BitVec 4, 1 ≤ len.toNat ∧ len.toNat ≤ 8 ∧
        (i = .absorb len ∨ i = .wrCmd (BitVec.ofNat 32 (len.toNat * 16 + 2))))) ∧
    (t.doutb ≠ s.doutb →
      i = .init ∨ i = .wrCmd 0x00000001 ∨ (s.err = false ∧ (i = .digest ∨ i = .wrCmd 0x00000003)))

/-- R338: MAYBUSY after every instruction but a STATUS read: 1 after an executed command that starts a permutation, 0 after every
other CMD write (one that raises a CmdError or is discarded too: assumption 14, DEDUCED) and after a DOUT read, unchanged
otherwise. -/
def Obligations.MayBusyMoves : Prop :=
  ∀ (i : Instr) (s t : State), exec i s = .next t →
    (i = .digest ∨ i = .wrCmd 0x00000003 → t.mayBusy = !s.err) ∧
    (∀ len : BitVec 4, len.toNat ≤ 8 → i = .absorb len ∨ i = .wrCmd (BitVec.ofNat 32 (len.toNat * 16 + 2)) →
      t.mayBusy = (!s.err && decide (136 ≤ s.bufLen.val + len.toNat))) ∧
    (i = .nop ∨ i = .init → t.mayBusy = false) ∧
    (∀ c, i = .wrCmd c → c ≠ 0x00000003 → (∀ len, decodeCommand c ≠ .command (.absorb len)) → t.mayBusy = false) ∧
    (i ∈ [.rdDout0, .rdDout1, .rdDout2, .rdDout3, .rdDout4, .rdDout5, .rdDout6, .rdDout7] → t.mayBusy = false) ∧
    ((i ∈ [.rdId, .rdParam, .rdDinLo, .rdDinHi] ∨ ∃ v, i = .wrDinLo v ∨ i = .wrDinHi v) → t.mayBusy = s.mayBusy)

/-! ### The permutation -/

/-- R130: bit i of ROTL64(v, n) is bit (i − n) mod 64 of v, and rotating on by 64 − n gives v back. -/
def Obligations.RotationMovesBits : Prop :=
  (∀ (v : Lane) (n i : Nat), i < 64 → (rotl64 v n).getLsbD i = v.getLsbD ((i + 64 - n % 64) % 64)) ∧
  (∀ (v : Lane) (n : Nat), n ≤ 63 → rotl64 (rotl64 v n) (64 - n) = v) ∧
  (∀ v : Lane, rotl64 v 0 = v ∧ rotl64 v 64 = v)

/-- R137: Theta, and its corner case of even column parity. -/
def Obligations.ThetaStep : Prop :=
  (∀ (A : LaneMatrix) (x y : Fin 5), (theta A)[x][y] = A[x][y] ^^^
    ((A[x - 1][0] ^^^ A[x - 1][1] ^^^ A[x - 1][2] ^^^ A[x - 1][3] ^^^ A[x - 1][4]) ^^^
     rotl64 (A[x + 1][0] ^^^ A[x + 1][1] ^^^ A[x + 1][2] ^^^ A[x + 1][3] ^^^ A[x + 1][4]) 1)) ∧
  (∀ A : LaneMatrix, (∀ x : Fin 5, A[x][0] ^^^ A[x][1] ^^^ A[x][2] ^^^ A[x][3] ^^^ A[x][4] = 0) → theta A = A)

/-- R138, R139: Rho and Pi in the scatter form of the rule, over a relocation that is a bijection with the given inverse. -/
def Obligations.RhoPiScatters : Prop :=
  (∀ (A : LaneMatrix) (x y : Fin 5), (rhoPi A)[y][2 * x + 3 * y] = rotl64 A[x][y] ROT[y][x]) ∧
  (∀ x y : Fin 5, (y + 3 * (2 * x + 3 * y), y) = (x, y)) ∧
  (∀ X Y : Fin 5, (X, 2 * (X + 3 * Y) + 3 * X) = (X, Y))

/-- R140, R141: Chi reads its own row of the input only; Iota changes lane (0, 0) only. -/
def Obligations.ChiAndIotaSteps : Prop :=
  (∀ (B : LaneMatrix) (x y : Fin 5), (chi B)[x][y] = B[x][y] ^^^ (~~~B[x + 1][y] &&& B[x + 2][y])) ∧
  (∀ (B : LaneMatrix) (y : Fin 5), (∀ x : Fin 5, B[x][y] = 0xFFFFFFFFFFFFFFFF) →
    ∀ x : Fin 5, (chi B)[x][y] = 0xFFFFFFFFFFFFFFFF) ∧
  (∀ (A : LaneMatrix) (i : Fin 24), (iota A i)[0][0] = A[0][0] ^^^ RC[i] ∧
    ∀ x y : Fin 5, (x, y) ≠ (0, 0) → (iota A i)[x][y] = A[x][y])

/-- R133, R135: the generators give exactly the two tables, the walk of the second visiting every lane but (0, 0). -/
def Obligations.TablesAreTheirGenerators : Prop :=
  (∀ i : Fin 24, generatedRC i.val = RC[i]) ∧
  ROT[0][0] = 0 ∧
  (∀ t : Fin 24, ROT[(rotWalk t.val).2][(rotWalk t.val).1] = rotOffset t.val) ∧
  (∀ x y : Fin 5, (x, y) ≠ (0, 0) → ∃ t : Fin 24, rotWalk t.val = (x, y) ∧ ∀ u : Fin 24, rotWalk u.val = (x, y) → u = t)

/-- R145, R331, R335: with any ROUNDS_PER_CYCLE the engine, started at round 0, is busy for 24 / ROUNDS_PER_CYCLE edges and
then holds KeccakF of its operand and has written its result. That ROUND is then 0 is assumption 7 (DEDUCED). -/
def Obligations.EngineComputesKeccakF : Prop :=
  ∀ (rpc : Config.RoundsPerCycle) (s : State), s.round = 0 →
    (s.phase ≠ .idle → ∀ k, k < 24 / rpc.toNat → ((State.engineEdge rpc.toNat)^[k] s).busy = true) ∧
    (s.phase = .permS → (State.engineEdge rpc.toNat)^[24 / rpc.toNat] s =
      { s with S := keccakF s.S, buf := placePending s.pend s.buf, pend := [], phase := .idle }) ∧
    (s.phase = .permW → ∃ t, (State.engineEdge rpc.toNat)^[24 / rpc.toNat] s = t ∧
      t = { s with W := keccakF s.W, doutb := t.doutb, phase := .idle } ∧ ∀ i : Fin 32, t.doutb[i] = (ser t.W)[i.val])

/-- R143, R193: the first lane of KeccakF of the all-zero matrix, and the digest of the empty message. -/
def Obligations.KnownAnswers : Prop :=
  (keccakF LaneMatrix.zero)[0][0] = 0xF1258F7940E1DDE7 ∧
  (keccak256 []).toList =
    [0xc5, 0xd2, 0x46, 0x01, 0x86, 0xf7, 0x23, 0x3c, 0x92, 0x7e, 0x7d, 0xb2, 0xdc, 0xc7, 0x03, 0xc0,
     0xe5, 0x00, 0xb6, 0x53, 0xca, 0x82, 0x27, 0x3b, 0x7b, 0xfa, 0xd8, 0x04, 0x5d, 0x85, 0xa4, 0x70]

/-! ### The sponge -/

/-- R180: where each byte of a lane stands in the serialization, and that Ser and Deser are inverse. -/
def Obligations.SerializationIsInvertible : Prop :=
  (∀ (A : LaneMatrix) (x y : Fin 5) (k : Fin 8),
    (ser A)[8 * (5 * y.val + x.val) + k.val] = A[x][y].extractLsb' (8 * k.val) 8) ∧
  (∀ A : LaneMatrix, deser (ser A) = A) ∧
  (∀ b : Vector Byte 200, ser (deser b) = b)

/-- R182, R181: absorbing a block is the XOR of the block, zero-extended to the state's width, into the serialization; the
capacity lanes are unchanged. -/
def Obligations.AbsorbBlockXorsTheRate : Prop :=
  (∀ (A : LaneMatrix) (blk : Vector Byte 136),
    absorbBlock A blk = deser (Vector.zipWith (· ^^^ ·) (ser A) (blk ++ Vector.replicate 64 (0x00 : Byte)))) ∧
  (∀ (A : LaneMatrix) (blk : Vector Byte 136) (x y : Fin 5), 17 ≤ 5 * y.val + x.val →
    (absorbBlock A blk)[x][y] = A[x][y])

/-- R188, R189: the padding, its length, and its marker bits. -/
def Obligations.PaddingFillsOneBlock : Prop :=
  (∀ used : Nat, used < 136 → (pad used 136).length = 136 - used) ∧
  (pad 136 136).length = 136 ∧
  (∀ used : Nat, used ≤ 136 →
    ∃ first last, (pad used 136).head? = some first ∧ (pad used 136).getLast? = some last ∧
      first.getLsbD 0 = true ∧ last.getLsbD 7 = true) ∧
  pad 135 136 = [0x81] ∧
  (∀ used : Nat, used < 135 → pad used 136 = [0x01] ++ List.replicate (134 - used) 0x00 ++ [0x80]) ∧
  pad 136 136 = [0x01] ++ List.replicate 134 0x00 ++ [0x80]

/-- R187: absorbing a and then b is absorbing a ++ b; after an absorb less than a block is pending (R41, R185). -/
def Obligations.AbsorbIsIncremental : Prop :=
  ∀ (S : LaneMatrix) (buf a b : List Byte),
    spongeAbsorb (spongeAbsorb S buf a).1 (spongeAbsorb S buf a).2 b = spongeAbsorb S buf (a ++ b) ∧
    (spongeAbsorb S buf a).2.length < 136

/-- R193: the hash is the block-wise one: the message with its padding, absorbed block by block from the all-zero matrix. -/
def Obligations.HashIsBlockwise : Prop :=
  ∀ M : List Byte,
    (M ++ pad (M.length % 136) 136).length = 136 * (M.length / 136 + 1) ∧
    keccak256 M = squeeze ((List.range (M.length / 136 + 1)).foldl
      (fun S j => keccakF (absorbBlock S (blockOf (((M ++ pad (M.length % 136) 136).drop (136 * j)).take 136))))
      LaneMatrix.zero)

/-- R244, R245: from a session that holds the bytes M (none after reset or INIT), any ABSORB commands, DIGEST and the eight DOUT
reads return the digest of M followed by the absorbed bytes, and the session goes on holding them. -/
def Obligations.HashContract : Prop :=
  State.reset.Holds [] ∧
  (∀ s t : State, exec .init s = .next t → t.Holds []) ∧
  (∀ (s : State) (M : List Byte) (cs : List (BitVec 64 × BitVec 4)) (rest : List HostInput),
    s.phase = .idle → s.err = false → s.Holds M → (∀ c ∈ cs, c.2.toNat ≤ 8) →
    s.host = assemble (chunkLines cs ++ [.command .digest, .readDigest]) ++ rest →
    ∃ t, Host.Core.run core (3 * cs.length + 9) s = .next t ∧ t.host = rest ∧
      t.Holds (M ++ chunkBytes cs) ∧ t.doutb = keccak256 (M ++ chunkBytes cs) ∧ t.digestTrusted = true ∧
      t.observation = s.observation ++ (List.finRange 8).map fun j => doutWord j (keccak256 (M ++ chunkBytes cs)))

/-- R109: the pseudo-instruction `feed` absorbs exactly its bytes. -/
def Obligations.FeedAbsorbsItsBytes : Prop :=
  ∀ (s : State) (M bytes : List Byte) (rest : List HostInput),
    s.phase = .idle → s.err = false → s.Holds M → s.host = assemble [.feed bytes] ++ rest →
    ∃ t, Host.Core.run core (3 * ((bytes.length + 7) / 8)) s = .next t ∧ t.host = rest ∧ t.Holds (M ++ bytes)

/-! ### Invariants, isolation, and the clocked block -/

/-- The reset state satisfies the invariant. -/
def Obligations.ResetSatisfiesTheInvariant : Prop := State.reset.Inv

/-- Every step keeps the invariant: among its clauses, that DIGEST_VALID = 1 means that DOUTB is the digest of the session's
bytes (R37), and that ERRCODE agrees with ERR (R38). -/
def Obligations.StepKeepsTheInvariant : Prop :=
  ∀ s t : State, s.Inv → step s = .next t → t.Inv

/-- Every clock edge of the block keeps the invariant, whatever ROUNDS_PER_CYCLE is. -/
def Obligations.ClockEdgeKeepsTheInvariant : Prop :=
  ∀ (rpc : Config.RoundsPerCycle) (s t : State), s.Inv → clockEdge rpc s = .next t → t.Inv

/-- R46: two states that differ only in S, BUF and W stay so, and are answered alike, over every step but one that executes
DIGEST; so nothing else shows anything of S, of W, of BUF or of the capacity. -/
def Obligations.OnlyDigestShowsTheState : Prop :=
  ∀ s t s' t' : State, SameVisible s t →
    ¬(s.err = false ∧ ∃ rest, s.host = .present { we := true, addr := 0x08, wdata := 0x00000003 } :: rest) →
    step s = .next s' → step t = .next t' → SameVisible s' t'

/-- R330, R331: from an idle engine, the acceptance edge of an instruction followed by the wait for BUSY = 0 is the
instruction's whole effect; a STATUS read differs at most in what stands for BUSY. -/
def Obligations.AcceptThenWaitIsExec : Prop :=
  ∀ (i : Instr) (s : State), s.phase = .idle → s.round = 0 → s.pend = [] →
    ∃ t u, acceptEdge i s = .next t ∧ exec i s = .next u ∧
      (i ≠ .rdStatus → t.waitIdle = u) ∧ t.timelessView = u.timelessView

/-- R330: the clocked block refines the atomic machine: a clock edge either shows no change outside time, which happens only with
nothing presented or while BUSY = 1, or it shows exactly what one step of the atomic machine does. How an edge takes an
access and the engine's rounds together is assumption 15 (DEDUCED). -/
def Obligations.ClockedBlockRefinesAtomicMachine : Prop :=
  ∀ (rpc : Config.RoundsPerCycle) (s : State), s.Inv →
    ∃ t, clockEdge rpc s = .next t ∧
      ((t.timelessView = s.timelessView ∧ (s.host = [] ∨ s.busy = true)) ∨
       ∃ u, step s = .next u ∧ t.timelessView = u.timelessView)

/-- R10, R330: two clocked blocks with any two values of ROUNDS_PER_CYCLE (PARAM, a constant of the instance, reads the same
in them: assumption 5), and the atomic machine, once each has taken all of
the host's inputs, have answered alike but for BUSY and hold the same state. -/
def Obligations.AnswersDoNotDependOnTime : Prop :=
  ∀ (rpc rpc' : Config.RoundsPerCycle) (n n' : Nat) (s t t' u : State), s.Inv →
    clockEdges rpc n s = .next t → t.host = [] →
    clockEdges rpc' n' s = .next t' → t'.host = [] →
    Host.Core.run core s.host.length s = .next u →
    t.timelessView = t'.timelessView ∧ t.timelessView = u.timelessView

/-- R332, R333, R337: a transaction that is not ready is held, and is accepted within 24 / ROUNDS_PER_CYCLE edges more. -/
def Obligations.StalledTransactionIsAccepted : Prop :=
  ∀ (rpc : Config.RoundsPerCycle) (s : State) (x : Transaction) (rest : List HostInput),
    s.host = .present x :: rest → s.ready x = false →
    clockEdge rpc s = .next (s.engineEdge rpc.toNat) ∧ (s.engineEdge rpc.toNat).host = s.host ∧
    (s.engineEdge rpc.toNat).responses = s.responses ∧
    ∃ k t, k ≤ 24 / rpc.toNat ∧ clockEdges rpc k s = .next t ∧ t = s.waitIdle ∧ t.ready x = true ∧ t.host = s.host

/-- R336: DIN written while a permutation runs does not affect it: the engine ends with what it would have ended with. -/
def Obligations.DinMayBeWrittenWhileBusy : Prop :=
  ∀ (v : Word) (s : State),
    (∃ t, exec (.wrDinLo v) s = .next t ∧
      t.waitIdle = { s.waitIdle with din := t.din, responses := .write 0x10 false :: s.responses }) ∧
    (∃ t, exec (.wrDinHi v) s = .next t ∧
      t.waitIdle = { s.waitIdle with din := t.din, responses := .write 0x14 false :: s.responses })
end

