-- ==== Sys2Proof/Laws/Decode.lean ====
section
/-! SUPPORT. Sys2Proof/Laws/Decode.lean: the fields of a command word and the access key as numbers, the two decoders in
terms of them, and the words of the legal commands. -/
namespace Sys2Proof

theorem commandOp_toNat (c : Word) : (commandOp c).toNat = c.toNat % 16 := by
  simp [commandOp, BitVec.extractLsb'_toNat]

theorem commandLen_toNat (c : Word) : (commandLen c).toNat = c.toNat / 16 % 16 := by
  simp [commandLen, BitVec.extractLsb'_toNat, Nat.shiftRight_eq_div_pow]

theorem commandRsvd_toNat (c : Word) : (commandRsvd c).toNat = c.toNat / 256 := by
  have := c.isLt
  simp [commandRsvd, BitVec.extractLsb'_toNat, Nat.shiftRight_eq_div_pow]; omega

/-- The decode of a command word, over the word's number. -/
theorem decodeCommand_toNat (c : Word) : decodeCommand c =
    if 4 ≤ c.toNat % 16 then .error .illegalOp
    else if c.toNat / 256 ≠ 0 then .error .reservedBits
    else if c.toNat % 16 ≠ 2 ∧ c.toNat / 16 % 16 ≠ 0 then .error .reservedBits
    else if c.toNat % 16 = 2 ∧ 8 < c.toNat / 16 % 16 then .error .badLen
    else if c.toNat % 16 = 0 then .command .nop
    else if c.toNat % 16 = 1 then .command .init
    else if c.toNat % 16 = 2 then .command (.absorb (BitVec.ofNat 4 (c.toNat / 16 % 16)))
    else .command .digest := by
  have h : commandLen c = BitVec.ofNat 4 (c.toNat / 16 % 16) := by
    apply BitVec.eq_of_toNat_eq; simp [commandLen_toNat]
  have e : ∀ (n : Nat) (k v : BitVec n), v = k ↔ v.toNat = k.toNat := fun n k v => BitVec.toNat_inj.symm
  simp [decodeCommand, e, commandOp_toNat, commandRsvd_toNat, h]

/-- The words that are commands, and which command each is. -/
theorem decodeCommand_command_iff (c : Word) (cmd : Command) : decodeCommand c = .command cmd ↔
    (c = 0 ∧ cmd = .nop) ∨ (c = 1 ∧ cmd = .init) ∨ (c = 3 ∧ cmd = .digest) ∨
      (∃ len : BitVec 4, len.toNat ≤ 8 ∧ c = BitVec.ofNat 32 (len.toNat * 16 + 2) ∧ cmd = .absorb len) := by
  have hc := c.isLt
  rw [decodeCommand_toNat]
  constructor
  · intro h
    repeat' split at h
    all_goals first | exact absurd h CommandDecode.noConfusion | skip
    all_goals simp only [CommandDecode.command.injEq] at h; subst h
    · refine .inl ⟨BitVec.eq_of_toNat_eq ?_, rfl⟩; simp; omega
    · refine .inr (.inl ⟨BitVec.eq_of_toNat_eq ?_, rfl⟩); simp; omega
    · refine .inr (.inr (.inr ⟨_, ?_, BitVec.eq_of_toNat_eq ?_, rfl⟩)) <;> simp <;> omega
    · refine .inr (.inr (.inl ⟨BitVec.eq_of_toNat_eq ?_, rfl⟩)); simp; omega
  · rintro (⟨rfl, rfl⟩ | ⟨rfl, rfl⟩ | ⟨rfl, rfl⟩ | ⟨len, h, rfl, rfl⟩)
    · rfl
    · rfl
    · rfl
    · have hl := len.isLt
      have : (BitVec.ofNat 32 (len.toNat * 16 + 2)).toNat = len.toNat * 16 + 2 := by simp; omega
      rw [this]
      repeat' split
      all_goals first | (exfalso; omega) | skip
      congr 2
      apply BitVec.eq_of_toNat_eq; simp; omega

theorem decodeCommand_nop : decodeCommand 0 = .command .nop := by decide
theorem decodeCommand_init : decodeCommand 1 = .command .init := by decide
theorem decodeCommand_digest : decodeCommand 3 = .command .digest := by decide
theorem decodeCommand_absorb (len : BitVec 4) (h : len.toNat ≤ 8) :
    decodeCommand (BitVec.ofNat 32 (len.toNat * 16 + 2)) = .command (.absorb len) :=
  (decodeCommand_command_iff _ _).2 (.inr (.inr (.inr ⟨len, h, rfl, rfl⟩)))

theorem key_toNat (t : Transaction) : t.key.toNat = (if t.we then 64 else 0) + t.addr.toNat := by
  obtain ⟨we, addr, w⟩ := t
  have : ∀ (we : Bool) (addr : BitVec 6),
      (BitVec.ofBool we ++ addr).toNat = (if we = true then 64 else 0) + addr.toNat := by decide +kernel
  exact this we addr

theorem decodeTransaction_instr_iff (t : Transaction) (i : Instr) :
    decodeTransaction t = .instr i ↔ decodeKey t.key t.wdata = some i := by
  unfold decodeTransaction
  split <;> simp_all

theorem decodeTransaction_rejected_iff (t : Transaction) (r : Reject) :
    decodeTransaction t = .rejected r ↔
      decodeKey t.key t.wdata = none ∧ r = .busError t.addr (busErrorCause t) := by
  unfold decodeTransaction
  cases h : decodeKey t.key t.wdata <;> simp [eq_comm]

/-- A CMD write of any word decodes to the instruction that writes it. -/
theorem decodeTransaction_wrCmd (c : Word) :
    decodeTransaction { we := true, addr := 0x08, wdata := c } = .instr (.wrCmd c) := by
  simp [decodeTransaction, Transaction.key, decodeKey]

end Sys2Proof
end

