-- ==== Sys2Proof/Laws/Permutation.lean ====
section
/-! SUPPORT. Sys2Proof/Laws/Permutation.lean: the lanes of a matrix built lane by lane, the lanes each step of the round gives,
and how runs of rounds compose. -/
namespace Sys2Proof

@[simp] theorem LaneMatrix.ofFn_getElem (f : Fin 5 → Fin 5 → Lane) (i j : Nat) (hi : i < 5) (hj : j < 5) :
    (LaneMatrix.ofFn f)[i][j] = f ⟨i, hi⟩ ⟨j, hj⟩ := by
  simp [LaneMatrix.ofFn]

/-- Two matrices with the same lanes are equal. -/
theorem LaneMatrix.ext_lanes {A B : LaneMatrix} (h : ∀ x y : Fin 5, A[x][y] = B[x][y]) : A = B := by
  apply Vector.ext
  intro i hi
  apply Vector.ext
  intro j hj
  exact h ⟨i, hi⟩ ⟨j, hj⟩

@[simp] theorem LaneMatrix.zero_getElem (i j : Nat) (hi : i < 5) (hj : j < 5) : LaneMatrix.zero[i][j] = 0 := by
  simp [LaneMatrix.zero]

namespace Machine

theorem rotl64_getLsbD (v : Lane) (n i : Nat) (h : i < 64) :
    (rotl64 v n).getLsbD i = v.getLsbD ((i + 64 - n % 64) % 64) := by
  unfold rotl64
  simp only
  split
  · rename_i h0; rw [h0]; congr 1; omega
  · simp only [BitVec.getLsbD_or, BitVec.getLsbD_shiftLeft, BitVec.getLsbD_ushiftRight]
    by_cases hi : i < n % 64
    · have : (i + 64 - n % 64) % 64 = 64 - n % 64 + i := by omega
      simp [hi, this]
    · have e : (i + 64 - n % 64) % 64 = i - n % 64 := by omega
      have : v.getLsbD (64 - n % 64 + i) = false := BitVec.getLsbD_of_ge _ _ (by omega)
      simp [hi, h, e, this]

theorem theta_getElem (A : LaneMatrix) (x y : Fin 5) : (theta A)[x][y] = A[x][y] ^^^
    ((A[x - 1][0] ^^^ A[x - 1][1] ^^^ A[x - 1][2] ^^^ A[x - 1][3] ^^^ A[x - 1][4]) ^^^
     rotl64 (A[x + 1][0] ^^^ A[x + 1][1] ^^^ A[x + 1][2] ^^^ A[x + 1][3] ^^^ A[x + 1][4]) 1) := by
  simp [theta]

theorem rhoPi_getElem (A : LaneMatrix) (X Y : Fin 5) :
    (rhoPi A)[X][Y] = rotl64 A[X + 3 * Y][X] ROT[X][X + 3 * Y] := by
  simp [rhoPi]

theorem chi_getElem (B : LaneMatrix) (x y : Fin 5) :
    (chi B)[x][y] = B[x][y] ^^^ (~~~B[x + 1][y] &&& B[x + 2][y]) := by
  simp [chi]

theorem iota_getElem (A : LaneMatrix) (i : Fin 24) (x y : Fin 5) :
    (iota A i)[x][y] = if x = 0 ∧ y = 0 then A[x][y] ^^^ RC[i] else A[x][y] := by
  simp [iota]

theorem roundOrder_length : roundOrder.length = 24 := by simp [roundOrder]

/-- Nothing is left of a permutation after round 23. -/
theorem remainingRounds_end (i : Nat) (h : 24 ≤ i) (A : LaneMatrix) : remainingRounds i A = A := by
  unfold remainingRounds
  rw [List.drop_of_length_le (by rw [roundOrder_length]; exact h)]
  rfl

/-- A whole permutation is what is left at round 0. -/
theorem remainingRounds_zero (A : LaneMatrix) : remainingRounds 0 A = keccakF A := by
  unfold remainingRounds keccakF
  rw [List.drop_zero]

/-- Rounds applied now and those left after them are those left before them. -/
theorem remainingRounds_applyRounds (i n : Nat) (A : LaneMatrix) :
    remainingRounds (i + n) (applyRounds i n A) = remainingRounds i A := by
  unfold remainingRounds applyRounds
  rw [← List.foldl_append, ← List.drop_drop, List.take_append_drop]

end Machine
end Sys2Proof
end

