-- ==== Sys2Proof/Laws/Sponge.lean ====
section
/-! SUPPORT. Sys2Proof/Laws/Sponge.lean: bytes and lanes, the bytes of the serialization, of an absorbed block and of a
digest, the source's absorb below and at a whole block, the padding, and the absorb of a byte. -/
namespace Sys2Proof.Machine

theorem laneOfBytes_byte (f : Fin 8 → Byte) (k : Fin 8) : laneByte (laneOfBytes f) k.val = f k := by
  apply BitVec.eq_of_getLsbD_eq
  intro i hi
  simp only [laneByte, laneOfBytes, BitVec.getLsbD_extractLsb', BitVec.getLsbD_append, hi, decide_true, Bool.true_and]
  fin_cases k <;> simp only [] <;> split_ifs <;> first | omega | (congr 1; omega)

theorem laneOfBytes_laneByte (v : Lane) : laneOfBytes (fun k => laneByte v k.val) = v := by
  apply BitVec.eq_of_getLsbD_eq
  intro i hi
  simp only [laneByte, laneOfBytes, BitVec.getLsbD_extractLsb', BitVec.getLsbD_append]
  split_ifs <;> (rw [decide_eq_true (by omega), Bool.true_and]; congr 1; omega)

theorem laneOfBytes_xor (f g : Fin 8 → Byte) :
    laneOfBytes (fun k => f k ^^^ g k) = laneOfBytes f ^^^ laneOfBytes g := by
  apply BitVec.eq_of_getLsbD_eq
  intro i hi
  simp only [laneOfBytes, BitVec.getLsbD_append, BitVec.getLsbD_xor]
  split_ifs <;> rfl

theorem wordOfBytes_byte (f : Fin 4 → Byte) (k : Fin 4) : (wordOfBytes f).extractLsb' (8 * k.val) 8 = f k := by
  apply BitVec.eq_of_getLsbD_eq
  intro i hi
  simp only [wordOfBytes, BitVec.getLsbD_extractLsb', BitVec.getLsbD_append, hi, decide_true, Bool.true_and]
  fin_cases k <;> simp only [] <;> split_ifs <;> first | omega | (congr 1; omega)

theorem dinOf_lo (hi lo : Word) : dinLo (dinOf hi lo) = lo := by
  apply BitVec.eq_of_getLsbD_eq
  intro i h
  simp only [dinLo, dinOf, BitVec.getLsbD_extractLsb', BitVec.getLsbD_append, h, decide_true, Bool.true_and]
  rw [if_pos (by omega)]; congr 1; omega

theorem dinOf_hi (hi lo : Word) : dinHi (dinOf hi lo) = hi := by
  apply BitVec.eq_of_getLsbD_eq
  intro i h
  simp only [dinHi, dinOf, BitVec.getLsbD_extractLsb', BitVec.getLsbD_append, h, decide_true, Bool.true_and]
  rw [if_neg (by omega)]; congr 1; omega

theorem dinOf_halves (d : BitVec 64) : dinOf (dinHi d) (dinLo d) = d := by
  apply BitVec.eq_of_getLsbD_eq
  intro i h
  simp only [dinHi, dinLo, dinOf, BitVec.getLsbD_extractLsb', BitVec.getLsbD_append]
  split_ifs
  · rw [decide_eq_true (by omega), Bool.true_and]; congr 1; omega
  · rw [decide_eq_true (by omega), Bool.true_and]; congr 1; omega

theorem dinBytes_length (n : Nat) (h : n ≤ 8) (d : BitVec 64) : (dinBytes n d).length = n := by
  simp [dinBytes, h]

theorem laneOfIndex_lane (A : LaneMatrix) (x y : Fin 5) (h : 5 * y.val + x.val < 25) :
    laneOfIndex A ⟨5 * y.val + x.val, h⟩ = A[x][y] := by
  have h1 : (5 * y.val + x.val) % 5 = x.val := by omega
  have h2 : (5 * y.val + x.val) / 5 = y.val := by omega
  simp [laneOfIndex, h1, h2]

theorem ser_getElem (A : LaneMatrix) (i : Nat) (h : i < 200) : (ser A)[i] = serByte A ⟨i, h⟩ := by
  unfold ser
  rw [Vector.getElem_ofFn]

theorem serByte_lane (A : LaneMatrix) (x y : Fin 5) (k : Fin 8) (h : 8 * (5 * y.val + x.val) + k.val < 200) :
    serByte A ⟨8 * (5 * y.val + x.val) + k.val, h⟩ = laneByte A[x][y] k.val := by
  have h1 : (8 * (5 * y.val + x.val) + k.val) / 8 = 5 * y.val + x.val := by omega
  have h2 : (8 * (5 * y.val + x.val) + k.val) % 8 = k.val := by omega
  simp only [serByte, h1, h2]
  rw [laneOfIndex_lane]

theorem absorbBlock_getElem (A : LaneMatrix) (blk : Vector Byte 136) (i j : Nat) (hi : i < 5) (hj : j < 5) :
    (absorbBlock A blk)[i][j] =
      if h : 5 * j + i < 17 then A[i][j] ^^^ laneOfBytes fun k => blk[8 * (5 * j + i) + k.val] else A[i][j] := by
  simp [absorbBlock]

theorem squeeze_getElem (A : LaneMatrix) (i : Nat) (h : i < 32) : (squeeze A)[i] = (ser A)[i] := by
  unfold squeeze extractRate
  rw [Vector.getElem_take, Vector.getElem_take]

/-- The block of a full BUF and the completing byte. -/
theorem blockOf_push (buf : Vector Byte 135) (b : Byte) : blockOf (buf.toList ++ [b]) = buf.push b := by
  apply Vector.ext
  intro i hi
  unfold blockOf
  rw [Vector.getElem_ofFn]
  by_cases h : i < 135
  · rw [Vector.getElem_push_lt h]
    simp [List.getD, List.getElem?_append_left, h]
  · have : i = 135 := by omega
    subst this
    simp [List.getD]

theorem pad_length (used : Nat) (h : used < 136) : (pad used 136).length = 136 - used := by
  unfold pad; simp only; split <;> split <;> simp <;> omega

/-- The source's absorb with less than a block: the bytes are appended (R185). -/
theorem spongeAbsorb_short (S : LaneMatrix) (buf data : List Byte) (h : (buf ++ data).length < 136) :
    spongeAbsorb S buf data = (S, buf ++ data) := by
  unfold spongeAbsorb
  rw [Nat.div_eq_of_lt h]; rfl

/-- The source's absorb with a block or more: one block is absorbed and the absorb goes on with the rest (R185). -/
theorem spongeAbsorb_block (S : LaneMatrix) (buf data : List Byte) (h : 136 ≤ (buf ++ data).length) :
    spongeAbsorb S buf data =
      spongeAbsorb (keccakF (absorbBlock S (blockOf ((buf ++ data).take 136)))) ((buf ++ data).drop 136) [] := by
  unfold spongeAbsorb
  have : (buf ++ data).length / 136 = ((buf ++ data).drop 136 ++ []).length / 136 + 1 := by
    simp only [List.append_nil, List.length_drop]; omega
  rw [this, List.append_nil]; rfl

/-- The source's absorb depends on what is pending and what comes only through the two joined (R185). -/
theorem spongeAbsorb_joined (S : LaneMatrix) (buf data : List Byte) :
    spongeAbsorb S buf data = spongeAbsorb S (buf ++ data) [] := by
  unfold spongeAbsorb; rw [List.append_nil]

@[simp] theorem State.pending_length (s : State) : s.pending.length = s.bufLen.val := by
  have := s.bufLen.isLt
  simp [State.pending]; omega

/-- Everything AbsorbByte does to a BUF that is not full. -/
theorem absorbByte_notFull (b : Byte) (s : State) (h : s.bufLen.val < 135) : absorbByte b s =
    { s with buf := s.buf.set s.bufLen.val b, bufLen := ⟨s.bufLen.val + 1, by omega⟩ } := by
  unfold absorbByte; rw [dif_pos h]

/-- Everything AbsorbByte does to a full BUF. -/
theorem absorbByte_completing (b : Byte) (s : State) (h : ¬s.bufLen.val < 135) : absorbByte b s =
    { s with S := keccakF (absorbBlock s.S (s.buf.push b)), bufLen := 0 } := by
  unfold absorbByte; rw [dif_neg h]

/-- AbsorbByte writes S, BUF and BUF_LEN only. -/
theorem absorbByte_frame (b : Byte) (s : State) : absorbByte b s =
    { s with S := (absorbByte b s).S, buf := (absorbByte b s).buf, bufLen := (absorbByte b s).bufLen } := by
  unfold absorbByte; split <;> rfl

theorem absorbBytes_cons (b : Byte) (l : List Byte) (s : State) :
    absorbBytes (b :: l) s = absorbBytes l (absorbByte b s) := rfl

theorem absorbBytes_append (l m : List Byte) (s : State) :
    absorbBytes (l ++ m) s = absorbBytes m (absorbBytes l s) := by
  simp [absorbBytes, List.foldl_append]

/-- Absorbing bytes writes S, BUF and BUF_LEN only. -/
theorem absorbBytes_frame (l : List Byte) : ∀ s : State, absorbBytes l s =
    { s with S := (absorbBytes l s).S, buf := (absorbBytes l s).buf, bufLen := (absorbBytes l s).bufLen } := by
  induction l with
  | nil => intro s; rfl
  | cons b l ih =>
    intro s
    rw [absorbBytes_cons]
    have h := ih (absorbByte b s)
    rw [absorbByte_frame b s] at h ⊢
    exact h

/-- Absorbing a byte moves BUF_LEN on, mod 136. -/
theorem absorbByte_bufLen (b : Byte) (s : State) : (absorbByte b s).bufLen.val = (s.bufLen.val + 1) % 136 := by
  have := s.bufLen.isLt
  by_cases h : s.bufLen.val < 135
  · rw [absorbByte_notFull b s h]; simp only; omega
  · rw [absorbByte_completing b s h]; simp only [Fin.val_zero]; omega

end Sys2Proof.Machine
end

