-- ==== Sys2Proof/Laws/State.lean ====
section
/-! SUPPORT. Sys2Proof/Laws/State.lean: what each named update of the state leaves in each field, one simp lemma a field,
each true by rfl; and the answers of a transaction in terms of `respond`. -/
namespace Sys2Proof.Machine

@[simp] theorem State.answerRead_eq (off : BitVec 6) (v : Word) (s : State) :
    s.answerRead off v = s.respond (.read off v false) := rfl
@[simp] theorem State.answerWrite_eq (off : BitVec 6) (s : State) :
    s.answerWrite off = s.respond (.write off false) := rfl
@[simp] theorem State.discardCommand_eq (s : State) : s.discardCommand = s.endCommand false := rfl
@[simp] theorem State.takeBusError_eq (t : Transaction) (s : State) :
    s.takeBusError t = s.respond (if t.we then .write t.addr true else .read t.addr 0 true) := rfl

@[simp] theorem State.respond_S (r : Response) (s : State) : (s.respond r).S = s.S := rfl
@[simp] theorem State.respond_buf (r : Response) (s : State) : (s.respond r).buf = s.buf := rfl
@[simp] theorem State.respond_bufLen (r : Response) (s : State) : (s.respond r).bufLen = s.bufLen := rfl
@[simp] theorem State.respond_din (r : Response) (s : State) : (s.respond r).din = s.din := rfl
@[simp] theorem State.respond_doutb (r : Response) (s : State) : (s.respond r).doutb = s.doutb := rfl
@[simp] theorem State.respond_digestValid (r : Response) (s : State) : (s.respond r).digestValid = s.digestValid := rfl
@[simp] theorem State.respond_err (r : Response) (s : State) : (s.respond r).err = s.err := rfl
@[simp] theorem State.respond_errcode (r : Response) (s : State) : (s.respond r).errcode = s.errcode := rfl
@[simp] theorem State.respond_mayBusy (r : Response) (s : State) : (s.respond r).mayBusy = s.mayBusy := rfl
@[simp] theorem State.respond_W (r : Response) (s : State) : (s.respond r).W = s.W := rfl
@[simp] theorem State.respond_phase (r : Response) (s : State) : (s.respond r).phase = s.phase := rfl
@[simp] theorem State.respond_round (r : Response) (s : State) : (s.respond r).round = s.round := rfl
@[simp] theorem State.respond_pend (r : Response) (s : State) : (s.respond r).pend = s.pend := rfl
@[simp] theorem State.respond_host (r : Response) (s : State) : (s.respond r).host = s.host := rfl
@[simp] theorem State.respond_draws (r : Response) (s : State) : (s.respond r).draws = s.draws := rfl
@[simp] theorem State.respond_responses (r : Response) (s : State) : (s.respond r).responses = r :: s.responses := rfl

@[simp] theorem State.raiseCmdError_S (code : ErrorCode) (s : State) : (s.raiseCmdError code).S = s.S := rfl
@[simp] theorem State.raiseCmdError_buf (code : ErrorCode) (s : State) : (s.raiseCmdError code).buf = s.buf := rfl
@[simp] theorem State.raiseCmdError_bufLen (code : ErrorCode) (s : State) :
    (s.raiseCmdError code).bufLen = s.bufLen := rfl
@[simp] theorem State.raiseCmdError_din (code : ErrorCode) (s : State) : (s.raiseCmdError code).din = s.din := rfl
@[simp] theorem State.raiseCmdError_doutb (code : ErrorCode) (s : State) : (s.raiseCmdError code).doutb = s.doutb := rfl
@[simp] theorem State.raiseCmdError_digestValid (code : ErrorCode) (s : State) :
    (s.raiseCmdError code).digestValid = s.digestValid := rfl
@[simp] theorem State.raiseCmdError_err (code : ErrorCode) (s : State) : (s.raiseCmdError code).err = true := rfl
@[simp] theorem State.raiseCmdError_errcode (code : ErrorCode) (s : State) :
    (s.raiseCmdError code).errcode = errorCodeBits code := rfl
@[simp] theorem State.raiseCmdError_mayBusy (code : ErrorCode) (s : State) :
    (s.raiseCmdError code).mayBusy = s.mayBusy := rfl
@[simp] theorem State.raiseCmdError_W (code : ErrorCode) (s : State) : (s.raiseCmdError code).W = s.W := rfl
@[simp] theorem State.raiseCmdError_phase (code : ErrorCode) (s : State) : (s.raiseCmdError code).phase = s.phase := rfl
@[simp] theorem State.raiseCmdError_round (code : ErrorCode) (s : State) : (s.raiseCmdError code).round = s.round := rfl
@[simp] theorem State.raiseCmdError_pend (code : ErrorCode) (s : State) : (s.raiseCmdError code).pend = s.pend := rfl
@[simp] theorem State.raiseCmdError_host (code : ErrorCode) (s : State) : (s.raiseCmdError code).host = s.host := rfl
@[simp] theorem State.raiseCmdError_draws (code : ErrorCode) (s : State) : (s.raiseCmdError code).draws = s.draws := rfl
@[simp] theorem State.raiseCmdError_responses (code : ErrorCode) (s : State) :
    (s.raiseCmdError code).responses = s.responses := rfl

@[simp] theorem State.clearCmdError_S (s : State) : s.clearCmdError.S = s.S := rfl
@[simp] theorem State.clearCmdError_buf (s : State) : s.clearCmdError.buf = s.buf := rfl
@[simp] theorem State.clearCmdError_bufLen (s : State) : s.clearCmdError.bufLen = s.bufLen := rfl
@[simp] theorem State.clearCmdError_din (s : State) : s.clearCmdError.din = s.din := rfl
@[simp] theorem State.clearCmdError_doutb (s : State) : s.clearCmdError.doutb = s.doutb := rfl
@[simp] theorem State.clearCmdError_digestValid (s : State) : s.clearCmdError.digestValid = s.digestValid := rfl
@[simp] theorem State.clearCmdError_err (s : State) : s.clearCmdError.err = false := rfl
@[simp] theorem State.clearCmdError_errcode (s : State) : s.clearCmdError.errcode = 0 := rfl
@[simp] theorem State.clearCmdError_mayBusy (s : State) : s.clearCmdError.mayBusy = s.mayBusy := rfl
@[simp] theorem State.clearCmdError_W (s : State) : s.clearCmdError.W = s.W := rfl
@[simp] theorem State.clearCmdError_phase (s : State) : s.clearCmdError.phase = s.phase := rfl
@[simp] theorem State.clearCmdError_round (s : State) : s.clearCmdError.round = s.round := rfl
@[simp] theorem State.clearCmdError_pend (s : State) : s.clearCmdError.pend = s.pend := rfl
@[simp] theorem State.clearCmdError_host (s : State) : s.clearCmdError.host = s.host := rfl
@[simp] theorem State.clearCmdError_draws (s : State) : s.clearCmdError.draws = s.draws := rfl
@[simp] theorem State.clearCmdError_responses (s : State) : s.clearCmdError.responses = s.responses := rfl

@[simp] theorem State.endCommand_S (started : Bool) (s : State) : (s.endCommand started).S = s.S := rfl
@[simp] theorem State.endCommand_buf (started : Bool) (s : State) : (s.endCommand started).buf = s.buf := rfl
@[simp] theorem State.endCommand_bufLen (started : Bool) (s : State) : (s.endCommand started).bufLen = s.bufLen := rfl
@[simp] theorem State.endCommand_din (started : Bool) (s : State) : (s.endCommand started).din = s.din := rfl
@[simp] theorem State.endCommand_doutb (started : Bool) (s : State) : (s.endCommand started).doutb = s.doutb := rfl
@[simp] theorem State.endCommand_digestValid (started : Bool) (s : State) :
    (s.endCommand started).digestValid = s.digestValid := rfl
@[simp] theorem State.endCommand_err (started : Bool) (s : State) : (s.endCommand started).err = s.err := rfl
@[simp] theorem State.endCommand_errcode (started : Bool) (s : State) :
    (s.endCommand started).errcode = s.errcode := rfl
@[simp] theorem State.endCommand_mayBusy (started : Bool) (s : State) : (s.endCommand started).mayBusy = started := rfl
@[simp] theorem State.endCommand_W (started : Bool) (s : State) : (s.endCommand started).W = s.W := rfl
@[simp] theorem State.endCommand_phase (started : Bool) (s : State) : (s.endCommand started).phase = s.phase := rfl
@[simp] theorem State.endCommand_round (started : Bool) (s : State) : (s.endCommand started).round = s.round := rfl
@[simp] theorem State.endCommand_pend (started : Bool) (s : State) : (s.endCommand started).pend = s.pend := rfl
@[simp] theorem State.endCommand_host (started : Bool) (s : State) : (s.endCommand started).host = s.host := rfl
@[simp] theorem State.endCommand_draws (started : Bool) (s : State) : (s.endCommand started).draws = s.draws := rfl
@[simp] theorem State.endCommand_responses (started : Bool) (s : State) :
    (s.endCommand started).responses = .write 0x08 false :: s.responses := rfl

@[simp] theorem State.startSession_S (s : State) : s.startSession.S = LaneMatrix.zero := rfl
@[simp] theorem State.startSession_buf (s : State) : s.startSession.buf = Vector.replicate 135 0 := rfl
@[simp] theorem State.startSession_bufLen (s : State) : s.startSession.bufLen = 0 := rfl
@[simp] theorem State.startSession_din (s : State) : s.startSession.din = s.din := rfl
@[simp] theorem State.startSession_doutb (s : State) : s.startSession.doutb = Vector.replicate 32 0 := rfl
@[simp] theorem State.startSession_digestValid (s : State) : s.startSession.digestValid = false := rfl
@[simp] theorem State.startSession_err (s : State) : s.startSession.err = false := rfl
@[simp] theorem State.startSession_errcode (s : State) : s.startSession.errcode = 0 := rfl
@[simp] theorem State.startSession_mayBusy (s : State) : s.startSession.mayBusy = s.mayBusy := rfl
@[simp] theorem State.startSession_W (s : State) : s.startSession.W = s.W := rfl
@[simp] theorem State.startSession_phase (s : State) : s.startSession.phase = s.phase := rfl
@[simp] theorem State.startSession_round (s : State) : s.startSession.round = s.round := rfl
@[simp] theorem State.startSession_pend (s : State) : s.startSession.pend = s.pend := rfl
@[simp] theorem State.startSession_host (s : State) : s.startSession.host = s.host := rfl
@[simp] theorem State.startSession_draws (s : State) : s.startSession.draws = s.draws := rfl
@[simp] theorem State.startSession_responses (s : State) : s.startSession.responses = s.responses := rfl

@[simp] theorem State.computeDigest_S (s : State) : s.computeDigest.S = s.S := rfl
@[simp] theorem State.computeDigest_buf (s : State) : s.computeDigest.buf = s.buf := rfl
@[simp] theorem State.computeDigest_bufLen (s : State) : s.computeDigest.bufLen = s.bufLen := rfl
@[simp] theorem State.computeDigest_din (s : State) : s.computeDigest.din = s.din := rfl
@[simp] theorem State.computeDigest_doutb (s : State) :
    s.computeDigest.doutb = squeeze (absorbFinal s.S s.pending) := rfl
@[simp] theorem State.computeDigest_digestValid (s : State) : s.computeDigest.digestValid = true := rfl
@[simp] theorem State.computeDigest_err (s : State) : s.computeDigest.err = s.err := rfl
@[simp] theorem State.computeDigest_errcode (s : State) : s.computeDigest.errcode = s.errcode := rfl
@[simp] theorem State.computeDigest_mayBusy (s : State) : s.computeDigest.mayBusy = s.mayBusy := rfl
@[simp] theorem State.computeDigest_W (s : State) : s.computeDigest.W = absorbFinal s.S s.pending := rfl
@[simp] theorem State.computeDigest_phase (s : State) : s.computeDigest.phase = s.phase := rfl
@[simp] theorem State.computeDigest_round (s : State) : s.computeDigest.round = s.round := rfl
@[simp] theorem State.computeDigest_pend (s : State) : s.computeDigest.pend = s.pend := rfl
@[simp] theorem State.computeDigest_host (s : State) : s.computeDigest.host = s.host := rfl
@[simp] theorem State.computeDigest_draws (s : State) : s.computeDigest.draws = s.draws := rfl
@[simp] theorem State.computeDigest_responses (s : State) : s.computeDigest.responses = s.responses := rfl

@[simp] theorem State.setDinLo_S (v : Word) (s : State) : (s.setDinLo v).S = s.S := rfl
@[simp] theorem State.setDinLo_buf (v : Word) (s : State) : (s.setDinLo v).buf = s.buf := rfl
@[simp] theorem State.setDinLo_bufLen (v : Word) (s : State) : (s.setDinLo v).bufLen = s.bufLen := rfl
@[simp] theorem State.setDinLo_din (v : Word) (s : State) : (s.setDinLo v).din = dinOf (dinHi s.din) v := rfl
@[simp] theorem State.setDinLo_doutb (v : Word) (s : State) : (s.setDinLo v).doutb = s.doutb := rfl
@[simp] theorem State.setDinLo_digestValid (v : Word) (s : State) : (s.setDinLo v).digestValid = s.digestValid := rfl
@[simp] theorem State.setDinLo_err (v : Word) (s : State) : (s.setDinLo v).err = s.err := rfl
@[simp] theorem State.setDinLo_errcode (v : Word) (s : State) : (s.setDinLo v).errcode = s.errcode := rfl
@[simp] theorem State.setDinLo_mayBusy (v : Word) (s : State) : (s.setDinLo v).mayBusy = s.mayBusy := rfl
@[simp] theorem State.setDinLo_W (v : Word) (s : State) : (s.setDinLo v).W = s.W := rfl
@[simp] theorem State.setDinLo_phase (v : Word) (s : State) : (s.setDinLo v).phase = s.phase := rfl
@[simp] theorem State.setDinLo_round (v : Word) (s : State) : (s.setDinLo v).round = s.round := rfl
@[simp] theorem State.setDinLo_pend (v : Word) (s : State) : (s.setDinLo v).pend = s.pend := rfl
@[simp] theorem State.setDinLo_host (v : Word) (s : State) : (s.setDinLo v).host = s.host := rfl
@[simp] theorem State.setDinLo_draws (v : Word) (s : State) : (s.setDinLo v).draws = s.draws := rfl
@[simp] theorem State.setDinLo_responses (v : Word) (s : State) : (s.setDinLo v).responses = s.responses := rfl

@[simp] theorem State.setDinHi_S (v : Word) (s : State) : (s.setDinHi v).S = s.S := rfl
@[simp] theorem State.setDinHi_buf (v : Word) (s : State) : (s.setDinHi v).buf = s.buf := rfl
@[simp] theorem State.setDinHi_bufLen (v : Word) (s : State) : (s.setDinHi v).bufLen = s.bufLen := rfl
@[simp] theorem State.setDinHi_din (v : Word) (s : State) : (s.setDinHi v).din = dinOf v (dinLo s.din) := rfl
@[simp] theorem State.setDinHi_doutb (v : Word) (s : State) : (s.setDinHi v).doutb = s.doutb := rfl
@[simp] theorem State.setDinHi_digestValid (v : Word) (s : State) : (s.setDinHi v).digestValid = s.digestValid := rfl
@[simp] theorem State.setDinHi_err (v : Word) (s : State) : (s.setDinHi v).err = s.err := rfl
@[simp] theorem State.setDinHi_errcode (v : Word) (s : State) : (s.setDinHi v).errcode = s.errcode := rfl
@[simp] theorem State.setDinHi_mayBusy (v : Word) (s : State) : (s.setDinHi v).mayBusy = s.mayBusy := rfl
@[simp] theorem State.setDinHi_W (v : Word) (s : State) : (s.setDinHi v).W = s.W := rfl
@[simp] theorem State.setDinHi_phase (v : Word) (s : State) : (s.setDinHi v).phase = s.phase := rfl
@[simp] theorem State.setDinHi_round (v : Word) (s : State) : (s.setDinHi v).round = s.round := rfl
@[simp] theorem State.setDinHi_pend (v : Word) (s : State) : (s.setDinHi v).pend = s.pend := rfl
@[simp] theorem State.setDinHi_host (v : Word) (s : State) : (s.setDinHi v).host = s.host := rfl
@[simp] theorem State.setDinHi_draws (v : Word) (s : State) : (s.setDinHi v).draws = s.draws := rfl
@[simp] theorem State.setDinHi_responses (v : Word) (s : State) : (s.setDinHi v).responses = s.responses := rfl

@[simp] theorem State.readDout_S (j : Fin 8) (s : State) : (s.readDout j).S = s.S := rfl
@[simp] theorem State.readDout_buf (j : Fin 8) (s : State) : (s.readDout j).buf = s.buf := rfl
@[simp] theorem State.readDout_bufLen (j : Fin 8) (s : State) : (s.readDout j).bufLen = s.bufLen := rfl
@[simp] theorem State.readDout_din (j : Fin 8) (s : State) : (s.readDout j).din = s.din := rfl
@[simp] theorem State.readDout_doutb (j : Fin 8) (s : State) : (s.readDout j).doutb = s.doutb := rfl
@[simp] theorem State.readDout_digestValid (j : Fin 8) (s : State) : (s.readDout j).digestValid = s.digestValid := rfl
@[simp] theorem State.readDout_err (j : Fin 8) (s : State) : (s.readDout j).err = s.err := rfl
@[simp] theorem State.readDout_errcode (j : Fin 8) (s : State) : (s.readDout j).errcode = s.errcode := rfl
@[simp] theorem State.readDout_mayBusy (j : Fin 8) (s : State) : (s.readDout j).mayBusy = false := rfl
@[simp] theorem State.readDout_W (j : Fin 8) (s : State) : (s.readDout j).W = s.W := rfl
@[simp] theorem State.readDout_phase (j : Fin 8) (s : State) : (s.readDout j).phase = s.phase := rfl
@[simp] theorem State.readDout_round (j : Fin 8) (s : State) : (s.readDout j).round = s.round := rfl
@[simp] theorem State.readDout_pend (j : Fin 8) (s : State) : (s.readDout j).pend = s.pend := rfl
@[simp] theorem State.readDout_host (j : Fin 8) (s : State) : (s.readDout j).host = s.host := rfl
@[simp] theorem State.readDout_draws (j : Fin 8) (s : State) : (s.readDout j).draws = s.draws := rfl
@[simp] theorem State.readDout_responses (j : Fin 8) (s : State) :
    (s.readDout j).responses = .read (BitVec.ofNat 6 (0x20 + 4 * j.val)) (doutWord j s.doutb) false :: s.responses := rfl

@[simp] theorem State.resetEdge_S (s : State) : s.resetEdge.S = State.reset.S := rfl
@[simp] theorem State.resetEdge_buf (s : State) : s.resetEdge.buf = State.reset.buf := rfl
@[simp] theorem State.resetEdge_bufLen (s : State) : s.resetEdge.bufLen = State.reset.bufLen := rfl
@[simp] theorem State.resetEdge_din (s : State) : s.resetEdge.din = State.reset.din := rfl
@[simp] theorem State.resetEdge_doutb (s : State) : s.resetEdge.doutb = State.reset.doutb := rfl
@[simp] theorem State.resetEdge_digestValid (s : State) : s.resetEdge.digestValid = State.reset.digestValid := rfl
@[simp] theorem State.resetEdge_err (s : State) : s.resetEdge.err = State.reset.err := rfl
@[simp] theorem State.resetEdge_errcode (s : State) : s.resetEdge.errcode = State.reset.errcode := rfl
@[simp] theorem State.resetEdge_mayBusy (s : State) : s.resetEdge.mayBusy = State.reset.mayBusy := rfl
@[simp] theorem State.resetEdge_W (s : State) : s.resetEdge.W = State.reset.W := rfl
@[simp] theorem State.resetEdge_phase (s : State) : s.resetEdge.phase = State.reset.phase := rfl
@[simp] theorem State.resetEdge_round (s : State) : s.resetEdge.round = State.reset.round := rfl
@[simp] theorem State.resetEdge_pend (s : State) : s.resetEdge.pend = State.reset.pend := rfl
@[simp] theorem State.resetEdge_host (s : State) : s.resetEdge.host = s.host := rfl
@[simp] theorem State.resetEdge_draws (s : State) : s.resetEdge.draws = s.draws := rfl
@[simp] theorem State.resetEdge_responses (s : State) : s.resetEdge.responses = s.responses := rfl

end Sys2Proof.Machine
end

