-- ==== Sys2Proof/Laws/Engine.lean ====
section
/-! SUPPORT. Sys2Proof/Laws/Engine.lean: what the wait for BUSY = 0 and one clock edge of the engine leave alone, and that an
edge does not change what the wait ends with. -/
namespace Sys2Proof.Machine

@[simp] theorem State.waitIdle_bufLen (s : State) : s.waitIdle.bufLen = s.bufLen := by
  unfold State.waitIdle; split <;> rfl
@[simp] theorem State.waitIdle_din (s : State) : s.waitIdle.din = s.din := by
  unfold State.waitIdle; split <;> rfl
@[simp] theorem State.waitIdle_digestValid (s : State) : s.waitIdle.digestValid = s.digestValid := by
  unfold State.waitIdle; split <;> rfl
@[simp] theorem State.waitIdle_err (s : State) : s.waitIdle.err = s.err := by
  unfold State.waitIdle; split <;> rfl
@[simp] theorem State.waitIdle_errcode (s : State) : s.waitIdle.errcode = s.errcode := by
  unfold State.waitIdle; split <;> rfl
@[simp] theorem State.waitIdle_mayBusy (s : State) : s.waitIdle.mayBusy = s.mayBusy := by
  unfold State.waitIdle; split <;> rfl
@[simp] theorem State.waitIdle_host (s : State) : s.waitIdle.host = s.host := by
  unfold State.waitIdle; split <;> rfl
@[simp] theorem State.waitIdle_draws (s : State) : s.waitIdle.draws = s.draws := by
  unfold State.waitIdle; split <;> rfl
@[simp] theorem State.waitIdle_responses (s : State) : s.waitIdle.responses = s.responses := by
  unfold State.waitIdle; split <;> rfl
@[simp] theorem State.waitIdle_phase (s : State) : s.waitIdle.phase = .idle := by
  unfold State.waitIdle; split <;> first | assumption | rfl

/-- With the engine idle there is nothing to wait for. -/
theorem State.waitIdle_of_idle (s : State) (h : s.phase = .idle) : s.waitIdle = s := by
  unfold State.waitIdle; rw [h]

@[simp] theorem State.waitIdle_waitIdle (s : State) : s.waitIdle.waitIdle = s.waitIdle :=
  State.waitIdle_of_idle _ (State.waitIdle_phase s)

/-- What the wait leaves of the permutation of S. -/
theorem State.waitIdle_of_permS (s : State) (h : s.phase = .permS) : s.waitIdle =
    { s with
        S := remainingRounds s.round.val s.S, buf := placePending s.pend s.buf, pend := [], phase := .idle,
        round := 0 } := by
  unfold State.waitIdle; rw [h]

/-- What the wait leaves of the permutation of W. -/
theorem State.waitIdle_of_permW (s : State) (h : s.phase = .permW) : s.waitIdle =
    { s with
        W := remainingRounds s.round.val s.W, doutb := squeeze (remainingRounds s.round.val s.W), phase := .idle,
        round := 0 } := by
  unfold State.waitIdle; rw [h]

theorem placePending_nil (buf : Vector Byte 135) : placePending [] buf = buf := by
  apply Vector.ext
  intro i hi
  simp [placePending]

/-- BUSY is a matter of PHASE (R331). -/
theorem State.busy_eq_false_iff (s : State) : s.busy = false ↔ s.phase = .idle := by
  unfold State.busy; cases s.phase <;> decide

/-- An idle engine does nothing at a clock edge. -/
theorem State.engineEdge_of_idle (n : Nat) (s : State) (h : s.phase = .idle) : s.engineEdge n = s := by
  unfold State.engineEdge
  split
  · rw [h]
  · exact s.waitIdle_of_idle h

/-- The last edge of a permutation does what the wait does. -/
theorem State.engineEdge_last (n : Nat) (s : State) (h : ¬s.round.val + n < 24) : s.engineEdge n = s.waitIdle := by
  unfold State.engineEdge; rw [dif_neg h]

/-- An edge of the engine writes S, BUF, W, DOUTB, PHASE, ROUND and PEND only. -/
theorem State.engineEdge_frame (n : Nat) (s : State) : s.engineEdge n =
    { s with
        S := (s.engineEdge n).S, buf := (s.engineEdge n).buf, W := (s.engineEdge n).W,
        doutb := (s.engineEdge n).doutb, phase := (s.engineEdge n).phase, round := (s.engineEdge n).round,
        pend := (s.engineEdge n).pend } := by
  unfold State.engineEdge State.waitIdle
  split <;> split <;> rfl

/-- An edge of the engine does not change what the wait ends with (R145). -/
theorem State.waitIdle_engineEdge (n : Nat) (s : State) : (s.engineEdge n).waitIdle = s.waitIdle := by
  by_cases h : s.round.val + n < 24
  · unfold State.engineEdge
    rw [dif_pos h]
    cases hp : s.phase with
    | idle => rfl
    | permS =>
      simp only
      rw [State.waitIdle_of_permS _ rfl, State.waitIdle_of_permS _ hp]
      simp only [remainingRounds_applyRounds]
    | permW =>
      simp only
      rw [State.waitIdle_of_permW _ rfl, State.waitIdle_of_permW _ hp]
      simp only [remainingRounds_applyRounds]
  · rw [State.engineEdge_last n s h, State.waitIdle_waitIdle]

/-- The wait does not read or write what the engine does not: the registers, the flags and the host's side. -/
theorem State.waitIdle_outside (s : State) (bl : Fin 136) (d : BitVec 64) (dv e : Bool) (ec : BitVec 4) (mb : Bool)
    (h : List HostInput) (n : Nat) (r : List Response) :
    ({ s with
        bufLen := bl, din := d, digestValid := dv, err := e, errcode := ec, mayBusy := mb, host := h, draws := n,
        responses := r } : State).waitIdle =
      { s.waitIdle with
        bufLen := bl, din := d, digestValid := dv, err := e, errcode := ec, mayBusy := mb, host := h, draws := n,
        responses := r } := by
  unfold State.waitIdle
  cases s with
  | mk S buf bufLen din doutb digestValid err errcode mayBusy W phase round pend host draws responses =>
    cases phase <;> rfl

theorem State.waitIdle_respond (r : Response) (s : State) : (s.respond r).waitIdle = s.waitIdle.respond r := by
  refine (State.waitIdle_outside s s.bufLen s.din s.digestValid s.err s.errcode s.mayBusy s.host s.draws
    (r :: s.responses)).trans ?_
  simp [State.respond]

theorem State.waitIdle_endCommand (b : Bool) (s : State) :
    (s.endCommand b).waitIdle = s.waitIdle.endCommand b := by
  refine (State.waitIdle_outside s s.bufLen s.din s.digestValid s.err s.errcode b s.host s.draws
    (.write 8 false :: s.responses)).trans ?_
  simp [State.endCommand, State.answerWrite, State.respond]

end Sys2Proof.Machine
end

