-- ==== Sys2Proof/Laws/Exec.lean ====
section
/-! SUPPORT. Sys2Proof/Laws/Exec.lean: what each shared operation does, in one equation, and the inversion of `exec`: the few
shapes of next state an instruction can answer with. -/
namespace Sys2Proof.Machine

/-- Everything that rejecting a command does (R282, R284). -/
theorem State.rejectCommand_eq (code : ErrorCode) (s : State) : s.rejectCommand code =
    { s with
        err := true, errcode := if s.err then s.errcode else errorCodeBits code, mayBusy := false,
        responses := .write 0x08 false :: s.responses } := by
  unfold State.rejectCommand
  split
  · rename_i h; obtain ⟨⟩ := s; simp at h; subst h; rfl
  · rename_i h; rfl

/-- Absorbing from DIN writes S, BUF, BUF_LEN and DIGEST_VALID only. -/
theorem State.absorbDin_frame (n : Nat) (s : State) : s.absorbDin n =
    { s with
        S := (absorbBytes (dinBytes n s.din) s).S, buf := (absorbBytes (dinBytes n s.din) s).buf,
        bufLen := (absorbBytes (dinBytes n s.din) s).bufLen,
        digestValid := digestValidAfterAbsorb n s.digestValid } := by
  unfold State.absorbDin
  simp only
  rw [absorbBytes_frame]

theorem State.absorbDin_zero (s : State) : s.absorbDin 0 = s := rfl

/-- Everything a STATUS read does when the engine is idle. -/
theorem State.readStatus_of_idle (d : Bool) (s : State) (h : s.phase = .idle) : s.readStatus d =
    { s with
        mayBusy := s.mayBusy && d, draws := if s.mayBusy then s.draws + 1 else s.draws,
        responses := .read 0x0C (statusWord (s.mayBusy && d) s) false :: s.responses } := by
  unfold State.readStatus
  rw [s.waitIdle_of_idle h]
  cases hm : s.mayBusy <;> cases d <;> simp [State.respond, hm]

/-- What a STATUS read leaves alone, whatever the engine does. -/
theorem State.readStatus_session (d : Bool) (s : State) :
    (s.readStatus d).err = s.err ∧ (s.readStatus d).errcode = s.errcode ∧
    (s.readStatus d).digestValid = s.digestValid ∧ (s.readStatus d).din = s.din ∧
    (s.readStatus d).bufLen = s.bufLen ∧ (s.readStatus d).host = s.host := by
  unfold State.readStatus; split <;> (try split) <;> simp

/-- A CMD write of a legal word calls the meaning of its command. -/
theorem exec_wrCmd_command (c : Word) (cmd : Command) (s : State) (h : decodeCommand c = .command cmd) :
    exec (.wrCmd c) s = exec cmd.toInstr s := by
  simp only [exec, execWrCmd, h]
  cases cmd <;> rfl

/-- The shapes of next state `exec` answers with: a command (by its own word or in a CMD write), a rejected command, a STATUS
read, a DOUT read, a read without side effect, or a write of half of DIN. -/
theorem exec_cases (i : Instr) (s t : State) (h : exec i s = .next t) :
    (∃ c cmd, decodeCommand c = .command cmd ∧ (i = cmd.toInstr ∨ i = .wrCmd c) ∧ exec cmd.toInstr s = .next t) ∨
    (∃ len : BitVec 4, 8 < len.toNat ∧ i = .absorb len ∧ t = s.rejectCommand .badLen) ∨
    (∃ c code, decodeCommand c = .error code ∧ i = .wrCmd c ∧ t = s.rejectCommand code) ∨
    (i = .rdStatus ∧ t = s.readStatus (Config.busyDraw s.draws)) ∨
    (∃ j : Fin 8, i = #v[Instr.rdDout0, .rdDout1, .rdDout2, .rdDout3, .rdDout4, .rdDout5, .rdDout6, .rdDout7][j] ∧
      t = s.readDout j) ∨
    (∃ off v, off ≠ 0x0C ∧ i ∈ [.rdId, .rdParam, .rdDinLo, .rdDinHi] ∧ t = s.respond (.read off v false)) ∨
    (∃ v, i = .wrDinLo v ∧ t = (s.setDinLo v).respond (.write 0x10 false)) ∨
    (∃ v, i = .wrDinHi v ∧ t = (s.setDinHi v).respond (.write 0x14 false)) := by
  cases i
  case nop => exact .inl ⟨0, .nop, decodeCommand_nop, .inl rfl, h⟩
  case init => exact .inl ⟨1, .init, decodeCommand_init, .inl rfl, h⟩
  case digest => exact .inl ⟨3, .digest, decodeCommand_digest, .inl rfl, h⟩
  case absorb len =>
    by_cases hl : len.toNat ≤ 8
    · exact .inl ⟨_, .absorb len, decodeCommand_absorb len hl, .inl rfl, h⟩
    · refine .inr (.inl ⟨len, by omega, rfl, ?_⟩)
      simp only [exec, execAbsorb, if_pos (show 8 < len.toNat by omega)] at h
      exact (Host.Outcome.next.inj h).symm
  case wrCmd c =>
    cases e : decodeCommand c with
    | command cmd => exact .inl ⟨c, cmd, e, .inr rfl, (exec_wrCmd_command c cmd s e).symm.trans h⟩
    | error code =>
      refine .inr (.inr (.inl ⟨c, code, e, rfl, ?_⟩))
      simp only [exec, execWrCmd, e] at h
      exact (Host.Outcome.next.inj h).symm
  case rdStatus => exact .inr (.inr (.inr (.inl ⟨rfl, (Host.Outcome.next.inj h).symm⟩)))
  case rdDout0 => exact .inr (.inr (.inr (.inr (.inl ⟨0, rfl, (Host.Outcome.next.inj h).symm⟩))))
  case rdDout1 => exact .inr (.inr (.inr (.inr (.inl ⟨1, rfl, (Host.Outcome.next.inj h).symm⟩))))
  case rdDout2 => exact .inr (.inr (.inr (.inr (.inl ⟨2, rfl, (Host.Outcome.next.inj h).symm⟩))))
  case rdDout3 => exact .inr (.inr (.inr (.inr (.inl ⟨3, rfl, (Host.Outcome.next.inj h).symm⟩))))
  case rdDout4 => exact .inr (.inr (.inr (.inr (.inl ⟨4, rfl, (Host.Outcome.next.inj h).symm⟩))))
  case rdDout5 => exact .inr (.inr (.inr (.inr (.inl ⟨5, rfl, (Host.Outcome.next.inj h).symm⟩))))
  case rdDout6 => exact .inr (.inr (.inr (.inr (.inl ⟨6, rfl, (Host.Outcome.next.inj h).symm⟩))))
  case rdDout7 => exact .inr (.inr (.inr (.inr (.inl ⟨7, rfl, (Host.Outcome.next.inj h).symm⟩))))
  case wrDinLo v => exact .inr (.inr (.inr (.inr (.inr (.inr (.inl ⟨v, rfl, (Host.Outcome.next.inj h).symm⟩))))))
  case wrDinHi v => exact .inr (.inr (.inr (.inr (.inr (.inr (.inr ⟨v, rfl, (Host.Outcome.next.inj h).symm⟩))))))
  all_goals exact .inr (.inr (.inr (.inr (.inr (.inl
    ⟨_, _, by decide, by simp, (Host.Outcome.next.inj h).symm⟩)))))

/-- The four commands: the word of each and the next state it answers with (R231 to R234, R284). -/
theorem command_cases (c : Word) (cmd : Command) (hc : decodeCommand c = .command cmd) (s t : State)
    (h : exec cmd.toInstr s = .next t) :
    (c = 0 ∧ cmd = .nop ∧ t = s.endCommand false) ∨
    (c = 1 ∧ cmd = .init ∧ t = s.startSession.endCommand false) ∨
    (∃ len : BitVec 4, len.toNat ≤ 8 ∧ c = BitVec.ofNat 32 (len.toNat * 16 + 2) ∧ cmd = .absorb len ∧
      ((s.err = true ∧ t = s.endCommand false) ∨
       (s.err = false ∧ t = (s.absorbDin len.toNat).endCommand (s.completesBlock len.toNat)))) ∨
    (c = 3 ∧ cmd = .digest ∧
      ((s.err = true ∧ t = s.endCommand false) ∨ (s.err = false ∧ t = s.computeDigest.endCommand true))) := by
  rw [decodeCommand_command_iff] at hc
  rcases hc with ⟨rfl, rfl⟩ | ⟨rfl, rfl⟩ | ⟨rfl, rfl⟩ | ⟨len, hl, rfl, rfl⟩
  · exact .inl ⟨rfl, rfl, (Host.Outcome.next.inj h).symm⟩
  · exact .inr (.inl ⟨rfl, rfl, (Host.Outcome.next.inj h).symm⟩)
  · refine .inr (.inr (.inr ⟨rfl, rfl, ?_⟩))
    have := (Host.Outcome.next.inj h).symm
    cases e : s.err <;> simp [e] at this <;> simp [this]
  · refine .inr (.inr (.inl ⟨len, hl, rfl, rfl, ?_⟩))
    have := (Host.Outcome.next.inj h).symm
    rw [if_neg (by omega)] at this
    cases e : s.err <;> simp [e] at this <;> simp [this]

/-- Every instruction answers a next state. -/
theorem exec_next (i : Instr) (s : State) : ∃ t, exec i s = .next t := by
  cases i
  case wrCmd c =>
    simp only [exec, execWrCmd]
    split <;> exact ⟨_, rfl⟩
  all_goals exact ⟨_, rfl⟩

/-- No instruction touches what the host has still to do. -/
theorem exec_host (i : Instr) (s t : State) (h : exec i s = .next t) : t.host = s.host := by
  rcases exec_cases i s t h with ⟨c, cmd, hd, _, hx⟩ | ⟨_, _, _, rfl⟩ | ⟨_, _, _, _, rfl⟩ | ⟨_, rfl⟩ | ⟨_, _, rfl⟩ |
    ⟨_, _, _, _, rfl⟩ | ⟨_, _, rfl⟩ | ⟨_, _, rfl⟩
  · rcases command_cases c cmd hd s t hx with ⟨_, _, rfl⟩ | ⟨_, _, rfl⟩ | ⟨_, _, _, _, ⟨_, rfl⟩ | ⟨_, rfl⟩⟩ |
      ⟨_, _, ⟨_, rfl⟩ | ⟨_, rfl⟩⟩
    all_goals first | rfl | (rw [State.endCommand_host, State.absorbDin_frame])
  · rw [State.rejectCommand_eq]
  · rw [State.rejectCommand_eq]
  · exact (State.readStatus_session _ s).2.2.2.2.2
  all_goals rfl

end Sys2Proof.Machine
end

