-- ==== Sys2Proof/Laws/Clock.lean ====
section
/-! SUPPORT. Sys2Proof/Laws/Clock.lean: the inversion of `acceptEdge` (an instruction's whole effect, a STATUS read in the
hardware, or the start of a permutation), the port ready and what is accepted, and what starting an ABSORB writes. -/
namespace Sys2Proof.Machine

/-- The acceptance edge of ABSORB: its whole effect, or the start of a permutation. -/
theorem acceptAbsorb_cases (len : BitVec 4) (s t : State) (h : acceptAbsorb len s = .next t) :
    exec (.absorb len) s = .next t ∨
    (len.toNat ≤ 8 ∧ s.err = false ∧ s.completesBlock len.toNat = true ∧
      t = (s.startAbsorb len.toNat).endCommand true) := by
  unfold acceptAbsorb at h
  split at h
  · rename_i hc
    simp at hc
    exact .inr ⟨hc.1.2, hc.1.1, hc.2, (Host.Outcome.next.inj h).symm⟩
  · exact .inl h

/-- The acceptance edge of DIGEST: discarded, or the start of a permutation. -/
theorem acceptDigest_cases (s t : State) (h : acceptDigest s = .next t) :
    exec .digest s = .next t ∨ (s.err = false ∧ t = s.startDigest.endCommand true) := by
  unfold acceptDigest at h
  split at h
  · exact .inl h
  · exact .inr ⟨by simp_all, (Host.Outcome.next.inj h).symm⟩

/-- The shapes of next state an acceptance edge answers with. -/
theorem acceptEdge_cases (i : Instr) (s t : State) (h : acceptEdge i s = .next t) :
    (exec i s = .next t ∧ i ≠ .rdStatus) ∨
    (i = .rdStatus ∧ t = s.readStatusClocked) ∨
    (∃ len : BitVec 4, len.toNat ≤ 8 ∧ s.err = false ∧ s.completesBlock len.toNat = true ∧
      t = (s.startAbsorb len.toNat).endCommand true ∧ exec i s = exec (.absorb len) s) ∨
    (s.err = false ∧ t = s.startDigest.endCommand true ∧ exec i s = exec .digest s) := by
  cases i
  case absorb len =>
    rcases acceptAbsorb_cases len s t h with h | ⟨h1, h2, h3, h4⟩
    · exact .inl ⟨h, by simp⟩
    · exact .inr (.inr (.inl ⟨len, h1, h2, h3, h4, rfl⟩))
  case digest =>
    rcases acceptDigest_cases s t h with h | h
    · exact .inl ⟨h, by simp⟩
    · exact .inr (.inr (.inr ⟨h.1, h.2, rfl⟩))
  case rdStatus => exact .inr (.inl ⟨rfl, (Host.Outcome.next.inj h).symm⟩)
  case wrCmd c =>
    simp only [acceptEdge, acceptWrCmd] at h
    cases e : decodeCommand c with
    | error code => rw [e] at h; exact .inl ⟨h, by simp⟩
    | command cmd =>
      rw [e] at h
      rw [exec_wrCmd_command c cmd s e]
      cases cmd with
      | nop => exact .inl ⟨h, by simp⟩
      | init => exact .inl ⟨h, by simp⟩
      | absorb len =>
        rcases acceptAbsorb_cases len s t h with h | ⟨h1, h2, h3, h4⟩
        · exact .inl ⟨h, by simp⟩
        · exact .inr (.inr (.inl ⟨len, h1, h2, h3, h4, rfl⟩))
      | digest =>
        rcases acceptDigest_cases s t h with h | h
        · exact .inl ⟨h, by simp⟩
        · exact .inr (.inr (.inr ⟨h.1, h.2, rfl⟩))
  all_goals exact .inl ⟨h, by simp⟩

/-- Every acceptance edge answers a next state. -/
theorem acceptEdge_next (i : Instr) (s : State) : ∃ t, acceptEdge i s = .next t := by
  have absorbs : ∀ len, ∃ t, acceptAbsorb len s = .next t := by
    intro len; unfold acceptAbsorb; split <;> exact ⟨_, rfl⟩
  have digests : ∃ t, acceptDigest s = .next t := by
    unfold acceptDigest; split <;> exact ⟨_, rfl⟩
  cases i
  case absorb len => exact absorbs len
  case digest => exact digests
  case rdStatus => exact ⟨_, rfl⟩
  case wrCmd c =>
    simp only [acceptEdge, acceptWrCmd]
    split
    · exact exec_next _ _
    · exact exec_next _ _
    · exact absorbs _
    · exact digests
    · exact exec_next _ _
  all_goals (simp only [acceptEdge]; exact exec_next _ s)

@[simp] theorem State.readyPort_rst (held : Option Transaction) (s : State) : s.readyPort (.rst held) = false := rfl
@[simp] theorem State.readyPort_idle (s : State) : s.readyPort .idle = true := rfl
@[simp] theorem State.readyPort_present (t : Transaction) (s : State) : s.readyPort (.present t) = s.ready t := rfl

/-- Nothing is accepted at a reset edge or at an edge without a request, and a presented transaction where it is ready. -/
theorem State.accepted_eq (input : HostInput) (s : State) : s.accepted input =
    match input with
    | .present t => if s.ready t then some t else none
    | _ => none := by
  cases input <;> rfl

/-- Starting an ABSORB writes S, BUF, BUF_LEN, DIGEST_VALID and the engine only. -/
theorem State.startAbsorb_frame (n : Nat) (s : State) : s.startAbsorb n =
    { s with
        S := (s.startAbsorb n).S, buf := (s.startAbsorb n).buf, bufLen := (s.startAbsorb n).bufLen,
        digestValid := false, phase := .permS, round := 0, pend := (s.startAbsorb n).pend } := by
  unfold State.startAbsorb
  simp only
  rw [absorbBytes_frame]

end Sys2Proof.Machine
end

