-- ==== Sys2Proof/Laws/PerInstr.lean ====
section
/-! SUPPORT. Sys2Proof/Laws/PerInstr.lean: the family CarriedByLegalKey, stated and proved for each instruction: the
transaction that carries its encoding has one of the sixteen legal access keys of R106. -/
namespace Sys2Proof.Laws

/-- The transaction that carries the instruction's encoding has a legal access key, and it decodes to the instruction itself
or, for a command, to the CMD write of its word (R34, R106). -/
def CarriedByLegalKey.Statement (i : Instr) : Prop :=
  (encode i).transaction.key.toNat ∈
    [0x00, 0x04, 0x0C, 0x10, 0x14, 0x20, 0x24, 0x28, 0x2C, 0x30, 0x34, 0x38, 0x3C, 0x48, 0x50, 0x54] ∧
  (decodeTransaction (encode i).transaction = .instr i ∨
   ∃ c : Word, encode i = .cmd c ∧ decodeTransaction (encode i).transaction = .instr (.wrCmd c))

theorem CarriedByLegalKey.nop : Statement .nop :=
  ⟨by decide, .inr ⟨_, rfl, decodeTransaction_wrCmd _⟩⟩
theorem CarriedByLegalKey.init : Statement .init :=
  ⟨by decide, .inr ⟨_, rfl, decodeTransaction_wrCmd _⟩⟩
theorem CarriedByLegalKey.absorb (len : BitVec 4) : Statement (.absorb len) :=
  ⟨by rw [key_toNat]; simp [encode, Encoding.transaction], .inr ⟨_, rfl, decodeTransaction_wrCmd _⟩⟩
theorem CarriedByLegalKey.digest : Statement .digest :=
  ⟨by decide, .inr ⟨_, rfl, decodeTransaction_wrCmd _⟩⟩
theorem CarriedByLegalKey.rdId : Statement .rdId := ⟨by decide, .inl (by decide)⟩
theorem CarriedByLegalKey.rdParam : Statement .rdParam := ⟨by decide, .inl (by decide)⟩
theorem CarriedByLegalKey.rdStatus : Statement .rdStatus := ⟨by decide, .inl (by decide)⟩
theorem CarriedByLegalKey.rdDinLo : Statement .rdDinLo := ⟨by decide, .inl (by decide)⟩
theorem CarriedByLegalKey.rdDinHi : Statement .rdDinHi := ⟨by decide, .inl (by decide)⟩
theorem CarriedByLegalKey.rdDout0 : Statement .rdDout0 := ⟨by decide, .inl (by decide)⟩
theorem CarriedByLegalKey.rdDout1 : Statement .rdDout1 := ⟨by decide, .inl (by decide)⟩
theorem CarriedByLegalKey.rdDout2 : Statement .rdDout2 := ⟨by decide, .inl (by decide)⟩
theorem CarriedByLegalKey.rdDout3 : Statement .rdDout3 := ⟨by decide, .inl (by decide)⟩
theorem CarriedByLegalKey.rdDout4 : Statement .rdDout4 := ⟨by decide, .inl (by decide)⟩
theorem CarriedByLegalKey.rdDout5 : Statement .rdDout5 := ⟨by decide, .inl (by decide)⟩
theorem CarriedByLegalKey.rdDout6 : Statement .rdDout6 := ⟨by decide, .inl (by decide)⟩
theorem CarriedByLegalKey.rdDout7 : Statement .rdDout7 := ⟨by decide, .inl (by decide)⟩
theorem CarriedByLegalKey.wrCmd (c : Word) : Statement (.wrCmd c) :=
  ⟨by rw [key_toNat]; simp [encode, Encoding.transaction], .inl (by
    simp [encode, Encoding.transaction, decodeTransaction, Transaction.key, decodeKey])⟩
theorem CarriedByLegalKey.wrDinLo (v : Word) : Statement (.wrDinLo v) :=
  ⟨by rw [key_toNat]; simp [encode, Encoding.transaction], .inl (by
    simp [encode, Encoding.transaction, decodeTransaction, Transaction.key, decodeKey])⟩
theorem CarriedByLegalKey.wrDinHi (v : Word) : Statement (.wrDinHi v) :=
  ⟨by rw [key_toNat]; simp [encode, Encoding.transaction], .inl (by
    simp [encode, Encoding.transaction, decodeTransaction, Transaction.key, decodeKey])⟩

end Sys2Proof.Laws
end

