-- ==== Sys2Proof/Tests/Slice0.lean ====
section
/-! SUPPORT. Sys2Proof/Tests/Slice0.lean: the model's own tests. The expected values are the spec's (95_test_vectors.md, named in
each comment, or the rule named); then the witnesses: for every statement with hypotheses, states and operands that
meet them. -/
namespace Sys2Proof.Tests
open Sys2Proof.Machine

/-- The state an outcome answers with. -/
def after (o : Host.Outcome State Fault Refusal) : State :=
  match o with
  | .next s => s
  | .fault _ => State.reset
  | .refused _ => State.reset

/-- Whether an outcome is a next state. -/
def answers (o : Host.Outcome State Fault Refusal) : Bool :=
  match o with
  | .next _ => true
  | .fault _ => false
  | .refused _ => false

/-- The STATUS word, with BUSY = 0, after the CMD write of `c` from reset. -/
def statusAfter (c : Word) : Word := statusWord false (after (exec (.wrCmd c) State.reset))

/-- The reset state with the first bytes of BUF and BUF_LEN set. -/
def withPending (bytes : List Byte) (n : Fin 136) : State :=
  { State.reset with buf := Vector.ofFn fun i => bytes.getD i.val 0, bufLen := n }

/-- The latest answer. -/
def lastAnswer (s : State) : Option Response := s.responses.head?

/-! ### WellFormed and Decode -/

theorem test_ill_formed_absorb_is_refused : (Instr.absorb 9).wf = false ∧ (Instr.absorb 15).wf = false := by decide
theorem test_absorb_8_is_well_formed : (Instr.absorb 8).wf = true ∧ (Instr.absorb 0).wf = true := by decide

/- R100, R101: RSVD (24 bits), LEN (4 bits), OP (4 bits). -/
theorem test_decode_commands :
    decodeTableWord 32 0b000000000000000000000000_0000_0000 = some .nop ∧
    decodeTableWord 32 0b000000000000000000000000_0000_0001 = some .init ∧
    decodeTableWord 32 0b000000000000000000000000_0111_0010 = some (.absorb 7) ∧
    decodeTableWord 32 0b000000000000000000000000_0000_0011 = some .digest := by decide

/- R106: the key K = we (1 bit), addr (6 bits). -/
theorem test_decode_reads :
    decodeTableWord 8 0b0_000000 = some .rdId ∧ decodeTableWord 8 0b0_000100 = some .rdParam ∧
    decodeTableWord 8 0b0_001100 = some .rdStatus ∧ decodeTableWord 8 0b0_010000 = some .rdDinLo ∧
    decodeTableWord 8 0b0_010100 = some .rdDinHi := by decide
theorem test_decode_dout_reads :
    decodeTableWord 8 0b0_100000 = some .rdDout0 ∧ decodeTableWord 8 0b0_100100 = some .rdDout1 ∧
    decodeTableWord 8 0b0_101000 = some .rdDout2 ∧ decodeTableWord 8 0b0_101100 = some .rdDout3 ∧
    decodeTableWord 8 0b0_110000 = some .rdDout4 ∧ decodeTableWord 8 0b0_110100 = some .rdDout5 ∧
    decodeTableWord 8 0b0_111000 = some .rdDout6 ∧ decodeTableWord 8 0b0_111100 = some .rdDout7 := by decide
theorem test_decode_writes :
    decodeTableWord 40 (0x00000003 * 256 + 0b1_001000) = some (.wrCmd 3) ∧
    decodeTableWord 40 (0x00636261 * 256 + 0b1_010000) = some (.wrDinLo 0x00636261) ∧
    decodeTableWord 40 (0x08070605 * 256 + 0b1_010100) = some (.wrDinHi 0x08070605) := by decide

/- B-3, one case per class. -/
theorem test_bus_error_classes :
    decodeTransaction ⟨false, 0x08, 0⟩ = .rejected (.busError 0x08 .readOfCmd) ∧
    decodeTransaction ⟨false, 0x18, 0⟩ = .rejected (.busError 0x18 .reservedOffset) ∧
    decodeTransaction ⟨true, 0x1C, 5⟩ = .rejected (.busError 0x1C .reservedOffset) ∧
    decodeTransaction ⟨true, 0x0C, 5⟩ = .rejected (.busError 0x0C .writeToReadOnly) ∧
    decodeTransaction ⟨true, 0x20, 5⟩ = .rejected (.busError 0x20 .writeToReadOnly) ∧
    decodeTransaction ⟨true, 0x0A, 5⟩ = .rejected (.busError 0x0A .misaligned) := by decide

/-! ### Steps -/

/- The first step after reset runs the instruction placed (R330). -/
theorem test_step_runs_a_placed_digest :
    (after (step (State.reset.withFetchWord 32 0x00000003))).digestValid = true := by decide
theorem test_step_runs_a_placed_din_write :
    (after (step (State.reset.withFetchWord 40 (0xDEADBEEF * 256 + 0b1_010000)))).din = 0xDEADBEEF := by decide

/- B-3: a read of CMD. -/
theorem test_step_answers_a_bus_error :
    lastAnswer (after (step { State.reset with host := [.present ⟨false, 0x08, 0⟩] })) =
      some (.read 0x08 0x00000000 true) := by decide

/- R-1. -/
theorem test_reset_edge_in_a_session :
    statusWord false (after (step { withPending [0x61, 0x62, 0x63] 3 with host := [.rst none], err := true })) = 0 := by
  decide

/- R320: at a reset edge ready is 0 and the DIN write presented is not accepted; the next edge accepts it. -/
theorem test_reset_edge_accepts_nothing :
    State.readyPort (.rst (some ⟨true, 0x10, 5⟩)) State.reset = false ∧
    (after (clockEdges .r1 1 { State.reset with host := [.rst (some ⟨true, 0x10, 5⟩), .present ⟨true, 0x10, 5⟩] })).din = 0 ∧
    (after (clockEdges .r1 2 { State.reset with host := [.rst (some ⟨true, 0x10, 5⟩), .present ⟨true, 0x10, 5⟩] })).din = 5 := by
  decide

/-! ### Commands -/

/- C-1. -/
theorem test_nop_status : statusAfter 0x00000000 = 0x00000000 := by decide
theorem test_init_status : statusAfter 0x00000001 = 0x00000000 := by decide
theorem test_absorb_status : statusAfter 0x00000012 = 0x00000100 ∧ statusAfter 0x00000082 = 0x00000800 := by decide
theorem test_digest_status : statusAfter 0x00000003 = 0x00000002 := by decide
theorem test_wrCmd_errors :
    statusAfter 0x000001F5 = 0x00000014 ∧ statusAfter 0x80000092 = 0x00000024 ∧
    statusAfter 0x00000013 = 0x00000024 ∧ statusAfter 0x000000F2 = 0x00000034 := by decide

/- C-3. -/
theorem test_nop_keeps_digest_valid :
    statusWord false (after (exec .nop { State.reset with digestValid := true })) = 0x00000002 := by decide

/- R-2, and C-2's way out of the error state. -/
theorem test_init_keeps_din_and_clears_err :
    (after (exec .init { State.reset with din := 0x00636261, err := true, errcode := 3 })).din = 0x00636261 ∧
    (after (exec .init { State.reset with err := true, errcode := 3 })).errcode = 0 := by decide

/- C-4 (c): BUF_LEN = 130, DIN = 0x0807060504030201 and ABSORB 8. -/
theorem test_absorb_across_the_block_boundary :
    statusWord false (after (exec (.absorb 8) { withPending [] 130 with din := 0x0807060504030201 })) = 0x00000200 ∧
    (after (exec (.absorb 8) { withPending [] 130 with din := 0x0807060504030201 })).pending = [0x07, 0x08] := by
  decide +kernel

/- C-2: DIGEST is discarded while ERR = 1. -/
theorem test_digest_is_discarded :
    statusWord false (after (exec .digest { withPending [0x61, 0x62, 0x63] 3 with err := true, errcode := 3 })) =
      0x00000334 := by decide

/- S-7 and S-6: the digest of "abc", its first word, and that BUF stays. -/
theorem test_digest_of_abc :
    doutWord 0 (after (exec .digest (withPending [0x61, 0x62, 0x63] 3))).doutb = 0x7A65034E ∧
    (after (exec .digest (withPending [0x61, 0x62, 0x63] 3))).pending = [0x61, 0x62, 0x63] := by decide +kernel

/- C-2: 0x00000101 is not the INIT word. -/
theorem test_wrCmd_of_a_near_init_word :
    statusWord false (after (exec (.wrCmd 0x00000101) { State.reset with err := true, errcode := 3 })) = 0x00000034 := by
  decide

/-! ### Register accesses -/

/- B-1. -/
theorem test_rdId : lastAnswer (after (exec .rdId State.reset)) = some (.read 0x00 0x4B323536 false) := by decide
theorem test_param_words : paramWord .r1 = 0x01208801 ∧ paramWord .r24 = 0x01208818 := by decide
theorem test_rdStatus :
    lastAnswer (after (exec .rdStatus { State.reset with digestValid := true })) =
      some (.read 0x0C 0x00000002 false) := by decide

/- B-2. -/
theorem test_din_readback :
    (after (exec (.wrDinHi 0x08070605) (after (exec (.wrDinLo 0x00636261) State.reset)))).din = 0x0807060500636261 ∧
    lastAnswer (after (exec .rdDinLo { State.reset with din := 0x0807060500636261 })) =
      some (.read 0x10 0x00636261 false) ∧
    lastAnswer (after (exec .rdDinHi { State.reset with din := 0x0807060500636261 })) =
      some (.read 0x14 0x08070605 false) := by decide

/- B-2: the bytes a following ABSORB 8 takes. -/
theorem test_din_bytes :
    dinBytes 8 0x0807060500636261 = [0x61, 0x62, 0x63, 0x00, 0x05, 0x06, 0x07, 0x08] := by decide

/- P1: the digest bytes of the empty message and the DOUT words they are read as. -/
theorem test_dout_words :
    let d : Vector Byte 32 := #v[
      0xc5, 0xd2, 0x46, 0x01, 0x86, 0xf7, 0x23, 0x3c, 0x92, 0x7e, 0x7d, 0xb2, 0xdc, 0xc7, 0x03, 0xc0,
      0xe5, 0x00, 0xb6, 0x53, 0xca, 0x82, 0x27, 0x3b, 0x7b, 0xfa, 0xd8, 0x04, 0x5d, 0x85, 0xa4, 0x70]
    lastAnswer (after (exec .rdDout0 { State.reset with doutb := d })) = some (.read 0x20 0x0146D2C5 false) ∧
    lastAnswer (after (exec .rdDout1 { State.reset with doutb := d })) = some (.read 0x24 0x3C23F786 false) ∧
    lastAnswer (after (exec .rdDout2 { State.reset with doutb := d })) = some (.read 0x28 0xB27D7E92 false) ∧
    lastAnswer (after (exec .rdDout3 { State.reset with doutb := d })) = some (.read 0x2C 0xC003C7DC false) ∧
    lastAnswer (after (exec .rdDout4 { State.reset with doutb := d })) = some (.read 0x30 0x53B600E5 false) ∧
    lastAnswer (after (exec .rdDout5 { State.reset with doutb := d })) = some (.read 0x34 0x3B2782CA false) ∧
    lastAnswer (after (exec .rdDout6 { State.reset with doutb := d })) = some (.read 0x38 0x04D8FA7B false) ∧
    lastAnswer (after (exec .rdDout7 { State.reset with doutb := d })) = some (.read 0x3C 0x70A4855D false) := by
  decide

/-! ### The permutation and the clocked block -/

/-- The matrix with one lane set. -/
def oneLane (x y : Fin 5) (v : Lane) : LaneMatrix := LaneMatrix.ofFn fun x' y' => if x' = x ∧ y' = y then v else 0

/- V-1. -/
theorem test_rotl64 :
    rotl64 0x8000000000000001 1 = 0x0000000000000003 ∧ rotl64 0x0123456789ABCDEF 63 = 0x8091A2B3C4D5E6F7 ∧
    rotl64 0x00000000FFFFFFFF 32 = 0xFFFFFFFF00000000 := by decide
/- P-2 (b) and (c). -/
theorem test_rhoPi :
    rhoPi (oneLane 4 4 1) = oneLane 4 0 0x0000000000004000 ∧
    rhoPi (oneLane 0 1 1) = oneLane 1 3 0x0000001000000000 := by decide +kernel
/- P-3 (b). -/
theorem test_chi_wraps :
    chi (oneLane 0 4 1) = LaneMatrix.ofFn fun x y => if y = 4 ∧ (x = 0 ∨ x = 3) then 1 else 0 := by decide +kernel
/- P-6. -/
theorem test_two_rounds :
    (rnd (rnd LaneMatrix.zero 0) 1)[0][0] = 0x0000000000008083 ∧
    (rnd (rnd LaneMatrix.zero 0) 1)[2][4] = 0x0000010000000004 := by decide +kernel

/- H-1: the block is completed by byte 11, and DIN is rewritten while the permutation runs. -/
theorem test_clocked_absorb_completes :
    (after (acceptEdge (.absorb 1) { withPending [] 135 with din := 0x11 })).busy = true ∧
    State.ready ⟨true, 0x08, 0x12⟩ (after (acceptEdge (.absorb 1) { withPending [] 135 with din := 0x11 })) = false ∧
    State.ready ⟨true, 0x10, 0x22⟩ (after (acceptEdge (.absorb 1) { withPending [] 135 with din := 0x11 })) = true := by
  decide +kernel

/-! ### Witnesses: what meets the hypotheses of each statement -/

/-- A block whose DIGEST has just been accepted. -/
def digesting : State := State.reset.startDigest.endCommand true

/-- A block in the middle of the permutation that an ABSORB started, with two bytes still to be placed. -/
def absorbing : State :=
  { State.reset with bufLen := 2, mayBusy := true, phase := .permS, round := 3, pend := [0x07, 0x08] }

/-- The state a DIGEST leaves at its acceptance satisfies the invariant, from a state without error. -/
theorem startDigest_inv (s : State) (h : List HostInput) (he : s.err = false) (hc : s.errcode = 0) (hq : s.pend = []) :
    ({ s.startDigest.endCommand true with host := h } : State).Inv := by
  have hp : ({ s.startDigest.endCommand true with host := h } : State).phase = .permW := rfl
  refine ⟨⟨fun _ => hc, fun _ => he⟩, ?_, fun h => (nomatch hp.symm.trans h), fun _ => hq,
    fun h => (nomatch hp.symm.trans h), fun _ => rfl, fun _ => ?_⟩
  · show s.errcode.toNat ≤ 3
    rw [hc]; decide
  · rw [State.waitIdle_of_permW _ hp]
    show squeeze (remainingRounds 0 (absorbBlock s.S (finalBlock s.pending))) =
      squeeze (keccakF (absorbBlock s.S (finalBlock s.pending)))
    rw [remainingRounds_zero]

theorem witness_digesting_inv (h : List HostInput) : ({ digesting with host := h } : State).Inv :=
  startDigest_inv State.reset h rfl rfl rfl

theorem witness_absorbing_inv (h : List HostInput) : ({ absorbing with host := h } : State).Inv :=
  ⟨(by decide : absorbing.err = false ↔ absorbing.errcode = 0), (by decide : absorbing.errcode.toNat ≤ 3),
    fun h => (nomatch h), fun h => (nomatch h), fun _ =>
      (by decide : absorbing.bufLen.val = absorbing.pend.length ∧ absorbing.pend.length ≤ 7), fun _ => rfl, fun h => (nomatch h)⟩

theorem witness_CommandChecksRunInOrder :
    4 ≤ (0x00000004 : Word).toNat % 16 ∧
    ((0x00000103 : Word).toNat % 16 < 4 ∧ (0x00000103 : Word).toNat / 256 ≠ 0) ∧
    ((0x00000013 : Word).toNat % 16 ≠ 2 ∧ (0x00000013 : Word).toNat % 16 < 4 ∧
      (0x00000013 : Word).toNat / 256 = 0 ∧ (0x00000013 : Word).toNat / 16 % 16 ≠ 0) ∧
    ((0x00000092 : Word).toNat % 16 = 2 ∧ (0x00000092 : Word).toNat / 256 = 0 ∧
      8 < (0x00000092 : Word).toNat / 16 % 16) ∧
    ((0x00000000 : Word).toNat % 16 = 0 ∧ (0x00000000 : Word).toNat / 16 = 0) ∧
    ((0x00000001 : Word).toNat % 16 = 1 ∧ (0x00000001 : Word).toNat / 16 = 0) ∧
    ((0x00000082 : Word).toNat % 16 = 2 ∧ (0x00000082 : Word).toNat / 256 = 0 ∧
      (0x00000082 : Word).toNat / 16 % 16 ≤ 8) ∧
    ((0x00000003 : Word).toNat % 16 = 3 ∧ (0x00000003 : Word).toNat / 16 = 0) := by decide

theorem witness_LegalCommandWordsAreTheTwelve :
    State.reset.err = false ∧ decodeCommand 0x000000F2 = .error .badLen ∧
    decodeCommand 0x00000082 = .command (.absorb 8) := by decide

theorem witness_LegalKeysAreTheSixteen :
    (∀ i, decodeTransaction ⟨true, 0x3F, 0⟩ ≠ .instr i) ∧ (∀ i, decodeTransaction ⟨false, 0x08, 0⟩ ≠ .instr i) ∧
    (∀ i, decodeTransaction ⟨false, 0x1C, 0⟩ ≠ .instr i) ∧ (∀ i, decodeTransaction ⟨true, 0x3C, 0⟩ ≠ .instr i) := by
  have rejects : ∀ t r, decodeTransaction t = .rejected r → ∀ i, decodeTransaction t ≠ .instr i := by
    intro t r h i; rw [h]; exact fun e => nomatch e
  exact ⟨rejects _ (.busError 0x3F .misaligned) (by decide), rejects _ (.busError 0x08 .readOfCmd) (by decide),
    rejects _ (.busError 0x1C .reservedOffset) (by decide), rejects _ (.busError 0x3C .writeToReadOnly) (by decide)⟩

theorem witness_DecodeReadsBackEncode : (Instr.absorb 8).wf = true ∧ (Instr.wrCmd 0xFFFFFFFF).wf = true := by decide

theorem witness_EncodeReadsBackDecode :
    decodeCommand 0x00000052 = .command (.absorb 5) ∧
    decodeTransaction ⟨false, 0x3C, 0xFFFFFFFF⟩ = .instr .rdDout7 := by decide

theorem witness_StepRunsTheDecodedInstruction :
    (({ digesting with host := [.present ⟨true, 0x08, 3⟩] } : State).host = .present ⟨true, 0x08, 3⟩ :: [] ∧
      decodeTransaction ⟨true, 0x08, 3⟩ = .instr (.wrCmd 3)) ∧
    decodeTransaction ⟨false, 0x20, 0⟩ = .instr .rdDout0 ∧ decodeTransaction ⟨false, 0x14, 0⟩ = .instr .rdDinHi := by
  decide

theorem witness_PresentedEncodingRuns :
    decodeCommand 0x00000003 = .command .digest ∧ (Instr.absorb 8).wf = true ∧ State.reset.phase = .idle := by decide

theorem witness_BusErrorIsAnsweredAndChangesNothing :
    ({ digesting with host := [.present ⟨false, 0x18, 0⟩] } : State).host = .present ⟨false, 0x18, 0⟩ :: [] ∧
    decodeTransaction ⟨false, 0x18, 0⟩ = .rejected (.busError 0x18 .reservedOffset) := by decide

theorem witness_ResetEdgeResetsTheBlock :
    ({ digesting with host := [.rst none, .idle] } : State).host = .rst none :: [.idle] ∧
    ({ digesting with host := [.rst (some ⟨true, 0x08, 3⟩), .present ⟨true, 0x08, 3⟩] } : State).host =
      .rst (some ⟨true, 0x08, 3⟩) :: [.present ⟨true, 0x08, 3⟩] := by decide

theorem witness_OnlyCommandWritesAndDoutReadsWait :
    digesting.busy = true ∧ State.ready ⟨true, 0x08, 3⟩ digesting = false ∧
    State.ready ⟨false, 0x3C, 0⟩ digesting = false ∧ State.ready ⟨false, 0x3D, 0⟩ digesting = true ∧
    State.readyPort (.rst none) digesting = false ∧ State.readyPort (.present ⟨true, 0x08, 3⟩) digesting = false ∧
    State.accepted (.present ⟨false, 0x3D, 0⟩) digesting = some ⟨false, 0x3D, 0⟩ := by decide

theorem witness_StatusRead : State.reset.mayBusy = false ∧ digesting.mayBusy = true := by decide

theorem witness_ReadsHaveNoSideEffect :
    State.reset.phase = .idle ∧ answers (exec .rdDout7 State.reset) = true ∧
    answers (exec .rdStatus State.reset) = true ∧ answers (exec (.wrDinLo 1) State.reset) = true ∧
    answers (exec (.wrDinHi 1) State.reset) = true := by decide

theorem witness_NopChangesNothing :
    State.reset.err = false ∧ (0x00000010 : Word).toNat % 16 = 0 ∧ (0x00000010 : Word) ≠ 0x00000000 := by decide

theorem witness_InitStartsANewSession :
    (0x00000101 : Word).toNat % 16 = 1 ∧ (0x00000101 : Word) ≠ 0x00000001 := by decide

theorem witness_AbsorbByteIsTheSourcesAbsorb :
    (withPending [] 135).bufLen.val = 135 ∧ (withPending [] 134).bufLen.val < 135 := by decide

theorem witness_AbsorbFeedsTheBytesOfDin :
    (8 : BitVec 4).toNat ≤ 8 ∧ (0 : BitVec 4).toNat ≤ 8 ∧ (withPending [] 135).err = false ∧
    ((0x00000102 : Word).toNat % 16 = 2 ∧ (0x00000102 : Word).toNat / 256 ≠ 0) ∧
    ((0x00000092 : Word).toNat % 16 = 2 ∧ 8 < (0x00000092 : Word).toNat / 16 % 16) ∧
    ((0x80000092 : Word).toNat % 16 = 2 ∧ (0x80000092 : Word).toNat / 256 ≠ 0 ∧ 8 < (0x80000092 : Word).toNat / 16 % 16) := by
  decide

theorem witness_DigestShowsThePaddedCopy :
    (withPending [0x61] 1).err = false ∧ (0x00000013 : Word).toNat % 16 = 3 ∧ (0x00000013 : Word) ≠ 0x00000003 := by
  decide

theorem witness_SecondDigestChangesNothing :
    (withPending [0x61] 1).err = false ∧ answers (exec .digest (withPending [0x61] 1)) = true ∧
    answers (exec .digest (after (exec .digest (withPending [0x61] 1)))) = true := by decide

theorem witness_MalformedWordRaisesCmdError :
    State.reset.err = false ∧ decodeCommand 0x0000000F = .error .illegalOp ∧
    decodeCommand 0x00000100 = .error .reservedBits ∧ decodeCommand 0x00000092 = .error .badLen := by
  decide

theorem witness_IllFormedAbsorbRaisesBadLen :
    State.reset.err = false ∧ 8 < (9 : BitVec 4).toNat ∧ 8 < (15 : BitVec 4).toNat := by decide

theorem witness_ErrorStateDiscardsCommands :
    ({ State.reset with err := true, errcode := 3 } : State).err = true ∧ (0x00000003 : Word) ≠ 0x00000001 := by decide

theorem witness_OnlyInitLeavesTheErrorState :
    ({ State.reset with err := true, errcode := 3 } : State).err = true ∧
    answers (exec .init { State.reset with err := true, errcode := 3 }) = true ∧
    answers (exec .digest { State.reset with err := true, errcode := 3 }) = true := by decide

theorem witness_DigestValidTransitions :
    (after (exec .digest State.reset)).digestValid ≠ State.reset.digestValid ∧
    (after (exec .init { State.reset with digestValid := true })).digestValid ≠ true ∧
    (after (exec (.absorb 1) { State.reset with digestValid := true })).digestValid ≠ true := by decide

theorem witness_OnlyHostWritesChangeDin :
    (after (exec (.wrDinLo 1) State.reset)).din ≠ State.reset.din ∧
    (after (exec (.wrDinHi 1) State.reset)).din ≠ State.reset.din := by decide

theorem witness_OnlyCommandsChangeTheSession :
    State.reset.phase = .idle ∧ (after (exec (.absorb 1) State.reset)).bufLen ≠ State.reset.bufLen ∧
    (after (exec .init { State.reset with S := oneLane 0 0 1 })).S ≠ oneLane 0 0 1 ∧
    (after (exec .init { State.reset with doutb := Vector.replicate 32 1 })).doutb ≠ Vector.replicate 32 1 := by
  decide +kernel

theorem witness_MayBusyMoves :
    answers (exec .digest State.reset) = true ∧ answers (exec (.absorb 8) (withPending [] 128)) = true ∧
    answers (exec .nop digesting) = true ∧ answers (exec (.wrCmd 0x00000004) digesting) = true ∧
    answers (exec .rdDout0 digesting) = true ∧ answers (exec .rdId digesting) = true := by decide

theorem witness_RotationMovesBits : (63 : Nat) < 64 ∧ (63 : Nat) ≤ 63 := by decide

/- P-1 (b). -/
theorem witness_ThetaStep :
    let A : LaneMatrix := LaneMatrix.ofFn fun x y => if x = 2 ∧ (y = 0 ∨ y = 3) then 5 else 0
    ∀ x : Fin 5, A[x][0] ^^^ A[x][1] ^^^ A[x][2] ^^^ A[x][3] ^^^ A[x][4] = 0 := by decide +kernel

/- P-3 (d). -/
theorem witness_ChiAndIotaSteps :
    (∀ x : Fin 5, (LaneMatrix.ofFn fun _ y => if y = 4 then 0xFFFFFFFFFFFFFFFF else 0)[x][4] = 0xFFFFFFFFFFFFFFFF) ∧
    ((0 : Fin 5), (1 : Fin 5)) ≠ (0, 0) := by decide +kernel

theorem witness_TablesAreTheirGenerators : ((0 : Fin 5), (1 : Fin 5)) ≠ (0, 0) := by decide

theorem witness_EngineComputesKeccakF :
    digesting.round = 0 ∧ digesting.phase = .permW ∧ ({ absorbing with round := 0 } : State).phase = .permS ∧
    23 < 24 / Config.RoundsPerCycle.r1.toNat ∧ 0 < 24 / Config.RoundsPerCycle.r24.toNat := by decide

theorem witness_AbsorbBlockXorsTheRate : 17 ≤ 5 * (3 : Fin 5).val + (2 : Fin 5).val := by decide

theorem witness_PaddingFillsOneBlock :
    (0 : Nat) < 135 ∧ (134 : Nat) < 135 ∧ (135 : Nat) < 136 ∧ (136 : Nat) ≤ 136 := by decide

/-- A session from reset that absorbs eight bytes and then none, ends with DIGEST and reads its digest. -/
def hashingHost : List HostInput :=
  assemble (chunkLines [(0x0807060504030201, 8), (0x00, 0)] ++ [.command .digest, .readDigest]) ++ [.idle]

theorem witness_HashContract :
    ({ State.reset with host := hashingHost } : State).phase = .idle ∧
    ({ State.reset with host := hashingHost } : State).err = false ∧
    State.Holds [] { State.reset with host := hashingHost } ∧
    (∀ c ∈ [((0x0807060504030201 : BitVec 64), (8 : BitVec 4)), (0x00, 0)], c.2.toNat ≤ 8) ∧
    answers (exec .init digesting) = true :=
  ⟨rfl, rfl, rfl, by simp, rfl⟩

theorem witness_FeedAbsorbsItsBytes :
    ({ State.reset with host := assemble [.feed [1, 2, 3, 4, 5, 6, 7, 8, 9]] ++ [] } : State).phase = .idle ∧
    ({ State.reset with host := assemble [.feed [1, 2, 3, 4, 5, 6, 7, 8, 9]] ++ [] } : State).err = false ∧
    State.Holds [] { State.reset with host := assemble [.feed [1, 2, 3, 4, 5, 6, 7, 8, 9]] ++ [] } :=
  ⟨rfl, rfl, rfl⟩

theorem witness_StepKeepsTheInvariant :
    ∃ t, ({ digesting with host := [.present ⟨true, 0x08, 0x12⟩] } : State).Inv ∧
      step { digesting with host := [.present ⟨true, 0x08, 0x12⟩] } = .next t :=
  ⟨_, witness_digesting_inv _, rfl⟩

theorem witness_ClockEdgeKeepsTheInvariant :
    ∃ t, ({ absorbing with host := [.present ⟨false, 0x20, 0⟩] } : State).Inv ∧
      clockEdge .r2 { absorbing with host := [.present ⟨false, 0x20, 0⟩] } = .next t :=
  ⟨_, witness_absorbing_inv _, rfl⟩

theorem witness_OnlyDigestShowsTheState :
    SameVisible { State.reset with host := [.present ⟨true, 0x08, 0x12⟩] }
      { State.reset with host := [.present ⟨true, 0x08, 0x12⟩], S := oneLane 4 4 1, W := oneLane 0 0 1 } ∧
    ({ State.reset with host := [.present ⟨true, 0x08, 0x12⟩] } : State).host ≠ [.present ⟨true, 0x08, 3⟩] ∧
    answers (step { State.reset with host := [.present ⟨true, 0x08, 0x12⟩] }) = true :=
  ⟨⟨rfl, rfl, rfl, rfl, rfl, rfl, rfl, rfl, rfl, rfl, rfl, rfl⟩, by decide, by decide⟩

theorem witness_AcceptThenWaitIsExec :
    (withPending [] 135).phase = .idle ∧ (withPending [] 135).round = 0 ∧ (withPending [] 135).pend = [] ∧
    Instr.absorb 8 ≠ .rdStatus := by decide

theorem witness_ClockedBlockRefinesAtomicMachine :
    ({ absorbing with host := [.present ⟨true, 0x08, 0x12⟩] } : State).Inv := witness_absorbing_inv _

theorem witness_AnswersDoNotDependOnTime :
    ∃ t t' u, ({ digesting with host := [.present ⟨false, 0x20, 0⟩] } : State).Inv ∧
      clockEdges .r24 2 { digesting with host := [.present ⟨false, 0x20, 0⟩] } = .next t ∧ t.host = [] ∧
      clockEdges .r12 3 { digesting with host := [.present ⟨false, 0x20, 0⟩] } = .next t' ∧ t'.host = [] ∧
      Host.Core.run core 1 { digesting with host := [.present ⟨false, 0x20, 0⟩] } = .next u :=
  ⟨_, _, _, witness_digesting_inv _, rfl, rfl, rfl, rfl, rfl⟩

theorem witness_StalledTransactionIsAccepted :
    ({ absorbing with host := [.present ⟨true, 0x08, 0x12⟩] } : State).host = .present ⟨true, 0x08, 0x12⟩ :: [] ∧
    State.ready ⟨true, 0x08, 0x12⟩ { absorbing with host := [.present ⟨true, 0x08, 0x12⟩] } = false := by decide

end Sys2Proof.Tests
end

section
/-! Proofs for the scope statements (00_scope.md, R10, R330). First, how the timeless view of a state moves with the updates of
the state: every rule pushes the view inward, to the state an update is applied to. -/
namespace Sys2Proof.Machine

/-- Masking bit 0 of a 16-bit word in 32 bits clears it. -/
theorem clearBit0_append (x : BitVec 15) (b : Bool) :
    (x ++ BitVec.ofBool b).setWidth 32 &&& 0xFFFFFFFE#32 = (x ++ BitVec.ofBool false).setWidth 32 := by
  have hmask : 0xFFFFFFFE#32 = BitVec.allOnes 32 <<< 1 := by decide
  apply BitVec.eq_of_getLsbD_eq
  intro i hi
  rw [hmask]
  simp only [BitVec.getLsbD_and, BitVec.getLsbD_setWidth, BitVec.getLsbD_append, BitVec.getLsbD_shiftLeft,
    BitVec.getLsbD_allOnes]
  cases i with
  | zero => simp
  | succ j => simp [hi]; omega

/-- Clearing BUSY in a STATUS word leaves the word of an idle block (R35). -/
theorem statusWord_clearBusy (b : Bool) (s : State) : statusWord b s &&& 0xFFFFFFFE#32 = statusWord false s :=
  clearBit0_append _ b

@[simp] theorem maskBusyBit_status (b e : Bool) (s : State) :
    maskBusyBit (.read 0x0C#6 (statusWord b s) e) = .read 0x0C#6 (statusWord false s) e := by
  simp [maskBusyBit, statusWord_clearBusy]

@[simp] theorem maskBusyBit_maskBusyBit (r : Response) : maskBusyBit (maskBusyBit r) = maskBusyBit r := by
  cases r with
  | read off v e =>
    simp only [maskBusyBit]
    split <;> simp [BitVec.and_assoc]
  | write off e => rfl

@[simp] theorem State.timelessView_host (s : State) : s.timelessView.host = s.host := s.waitIdle_host
@[simp] theorem State.timelessView_bufLen (s : State) : s.timelessView.bufLen = s.bufLen := s.waitIdle_bufLen
@[simp] theorem State.timelessView_din (s : State) : s.timelessView.din = s.din := s.waitIdle_din
@[simp] theorem State.timelessView_err (s : State) : s.timelessView.err = s.err := s.waitIdle_err
@[simp] theorem State.timelessView_errcode (s : State) : s.timelessView.errcode = s.errcode := s.waitIdle_errcode
@[simp] theorem State.timelessView_digestValid (s : State) : s.timelessView.digestValid = s.digestValid :=
  s.waitIdle_digestValid
@[simp] theorem State.timelessView_phase (s : State) : s.timelessView.phase = .idle := s.waitIdle_phase

/-- The timeless view of a state with an idle engine. -/
theorem State.timelessView_of_idle (s : State) (h : s.phase = .idle) : s.timelessView =
    { s with mayBusy := false, draws := 0, responses := s.responses.map maskBusyBit } := by
  unfold State.timelessView; rw [s.waitIdle_of_idle h]

/-- States that the wait for BUSY = 0 takes to the same state have the same view. -/
theorem State.timelessView_eq_of_waitIdle_eq {s t : State} (h : s.waitIdle = t.waitIdle) :
    s.timelessView = t.timelessView := by
  have hr : s.responses = t.responses := by rw [← s.waitIdle_responses, h, t.waitIdle_responses]
  unfold State.timelessView; rw [h, hr]

@[simp] theorem State.timelessView_waitIdle (s : State) : s.waitIdle.timelessView = s.timelessView :=
  State.timelessView_eq_of_waitIdle_eq s.waitIdle_waitIdle

@[simp] theorem State.timelessView_engineEdge (n : Nat) (s : State) : (s.engineEdge n).timelessView = s.timelessView :=
  State.timelessView_eq_of_waitIdle_eq (s.waitIdle_engineEdge n)

@[simp] theorem State.timelessView_timelessView (s : State) : s.timelessView.timelessView = s.timelessView := by
  rw [State.timelessView_of_idle _ s.timelessView_phase]
  simp [State.timelessView, Function.comp_def]

/-- DIN and the host's inputs, which the engine does not read, go through the view; MAYBUSY and the draws go. -/
theorem State.timelessView_outside (s : State) (d : BitVec 64) (mb : Bool) (h : List HostInput) (n : Nat) :
    ({ s with din := d, mayBusy := mb, host := h, draws := n } : State).timelessView =
      { s.timelessView with din := d, host := h } := by
  have hw := s.waitIdle_outside s.bufLen d s.digestValid s.err s.errcode mb h n s.responses
  unfold State.timelessView
  rw [hw, ← s.waitIdle_bufLen, ← s.waitIdle_digestValid, ← s.waitIdle_err, ← s.waitIdle_errcode]

@[simp] theorem State.timelessView_withHost (h : List HostInput) (s : State) :
    ({ s with host := h } : State).timelessView = { s.timelessView with host := h } := by
  refine (s.timelessView_outside s.din s.mayBusy h s.draws).trans ?_
  rw [← s.timelessView_din]

@[simp] theorem State.timelessView_withBusy (b : Bool) (n : Nat) (s : State) :
    ({ s with mayBusy := b, draws := n } : State).timelessView = s.timelessView := by
  refine (s.timelessView_outside s.din b s.host n).trans ?_
  rw [← s.timelessView_din, ← s.timelessView_host]

@[simp] theorem State.timelessView_respond (r : Response) (s : State) :
    (s.respond r).timelessView = s.timelessView.respond (maskBusyBit r) := by
  unfold State.timelessView; rw [State.waitIdle_respond]; rfl

@[simp] theorem State.timelessView_endCommand (b : Bool) (s : State) :
    (s.endCommand b).timelessView = s.timelessView.endCommand false := by
  unfold State.timelessView; rw [State.waitIdle_endCommand]; rfl

@[simp] theorem State.timelessView_setDinLo (v : Word) (s : State) :
    (s.setDinLo v).timelessView = s.timelessView.setDinLo v := by
  refine (s.timelessView_outside (dinOf (dinHi s.din) v) s.mayBusy s.host s.draws).trans ?_
  rw [← s.timelessView_din, ← s.timelessView_host]; rfl

@[simp] theorem State.timelessView_setDinHi (v : Word) (s : State) :
    (s.setDinHi v).timelessView = s.timelessView.setDinHi v := by
  refine (s.timelessView_outside (dinOf v (dinLo s.din)) s.mayBusy s.host s.draws).trans ?_
  rw [← s.timelessView_din, ← s.timelessView_host]; rfl

/-- Beside BUSY, a STATUS word shows nothing that depends on time. -/
@[simp] theorem statusWord_timelessView (b : Bool) (s : State) : statusWord b s.timelessView = statusWord b s := by
  simp [statusWord]

/-- A STATUS read does the same in every view, whatever is drawn for BUSY (R338). -/
@[simp] theorem State.timelessView_readStatus (d : Bool) (s : State) :
    (s.readStatus d).timelessView = s.timelessView.respond (.read 0x0C#6 (statusWord false s) false) := by
  have hdrawn := s.timelessView_withBusy s.mayBusy (s.draws + 1)
  have hended := s.waitIdle.timelessView_withBusy false (s.draws + 1)
  rw [State.timelessView_waitIdle] at hended
  unfold State.readStatus
  split
  · split
    · rw [State.answerRead_eq, State.timelessView_respond, hdrawn]; simp
    · rw [State.answerRead_eq, State.timelessView_respond, hended]; simp
  · simp

/-- A STATUS read of the hardware shows what that of the atomic machine does, but for BUSY. -/
@[simp] theorem State.timelessView_readStatusClocked (s : State) :
    s.readStatusClocked.timelessView = s.timelessView.respond (.read 0x0C#6 (statusWord false s) false) := by
  have h := s.timelessView_withBusy (s.mayBusy && s.busy) s.draws
  simp [State.readStatusClocked, h]

theorem State.timelessView_rejectCommand (code : ErrorCode) (s : State) (h : s.phase = .idle) :
    (s.rejectCommand code).timelessView = s.timelessView.rejectCommand code := by
  have hp : (s.rejectCommand code).phase = .idle := by rw [State.rejectCommand_eq]; exact h
  rw [State.timelessView_of_idle _ hp, State.timelessView_of_idle s h, State.rejectCommand_eq, State.rejectCommand_eq]
  rfl

theorem State.timelessView_startSession (s : State) (h : s.phase = .idle) :
    s.startSession.timelessView = s.timelessView.startSession := by
  rw [State.timelessView_of_idle s.startSession h, State.timelessView_of_idle s h]; rfl

theorem State.timelessView_computeDigest (s : State) (h : s.phase = .idle) :
    s.computeDigest.timelessView = s.timelessView.computeDigest := by
  rw [State.timelessView_of_idle s.computeDigest h, State.timelessView_of_idle s h]; rfl

/-- Absorbing bytes reads nothing of MAYBUSY, the draws and the answers. -/
theorem absorbBytes_outside (mb : Bool) (n : Nat) (r : List Response) (l : List Byte) : ∀ s : State,
    absorbBytes l { s with mayBusy := mb, draws := n, responses := r } =
      { absorbBytes l s with mayBusy := mb, draws := n, responses := r } := by
  induction l with
  | nil => intro s; rfl
  | cons b l ih =>
    intro s
    have hb : absorbByte b { s with mayBusy := mb, draws := n, responses := r } =
        { absorbByte b s with mayBusy := mb, draws := n, responses := r } := by
      unfold absorbByte; dsimp only; split <;> rfl
    rw [absorbBytes_cons, absorbBytes_cons, hb, ih]

theorem State.timelessView_absorbDin (n : Nat) (s : State) (h : s.phase = .idle) :
    (s.absorbDin n).timelessView = s.timelessView.absorbDin n := by
  have hp : (s.absorbDin n).phase = .idle := by rw [State.absorbDin_frame]; exact h
  have hr : (s.absorbDin n).responses = s.responses := by rw [State.absorbDin_frame]
  rw [State.timelessView_of_idle _ hp, State.timelessView_of_idle s h, hr]
  simp only [State.absorbDin, absorbBytes_outside]

theorem State.timelessView_readDout (j : Fin 8) (s : State) (h : s.phase = .idle) :
    (s.readDout j).timelessView = s.timelessView.readDout j := by
  have hoff : BitVec.ofNat 6 (0x20 + 4 * j.val) ≠ 0x0C#6 := by fin_cases j <;> decide
  rw [State.timelessView_of_idle (s.readDout j) h, State.timelessView_of_idle s h]
  simp [State.readDout, State.respond, maskBusyBit, hoff]

end Sys2Proof.Machine
end

section
/-! What an instruction or a step of the atomic machine does to a state shows in its timeless view alone. -/
namespace Sys2Proof.Machine

/-- An instruction that starts without a wait from `s`: the engine is idle, or the access is none that waits (R332 to R334). -/
def State.StartsAtOnce (i : Instr) (s : State) : Prop := s.phase = .idle ∨ waitsForIdle i = false

/-- After its wait, an instruction starts. -/
theorem State.startsAtOnce_waitFor (i : Instr) (s : State) : (s.waitFor i).StartsAtOnce i := by
  unfold State.waitFor
  split
  · exact .inl s.waitIdle_phase
  · exact .inr (by simpa using ‹¬waitsForIdle i = true›)

@[simp] theorem State.timelessView_waitFor (i : Instr) (s : State) : (s.waitFor i).timelessView = s.timelessView := by
  unfold State.waitFor; split <;> simp

/-- An instruction that starts at once waits for nothing. -/
theorem State.StartsAtOnce.waitFor_eq {i : Instr} {s : State} (h : s.StartsAtOnce i) : s.waitFor i = s := by
  unfold State.waitFor
  rcases h with h | h
  · rw [s.waitIdle_of_idle h, ite_self]
  · simp [h]

/-- A command, with the engine idle, does to the view what it does to the state. -/
theorem exec_command_timelessView (cmd : Command) {s t u : State} (hp : s.phase = .idle)
    (hs : exec cmd.toInstr s = .next t) (hv : exec cmd.toInstr s.timelessView = .next u) :
    t.timelessView = u.timelessView := by
  cases cmd with
  | nop =>
    obtain rfl := Host.Outcome.next.inj hs
    obtain rfl := Host.Outcome.next.inj hv
    simp
  | init =>
    obtain rfl := Host.Outcome.next.inj hs
    obtain rfl := Host.Outcome.next.inj hv
    simp [State.timelessView_startSession, hp]
  | absorb len =>
    obtain rfl := Host.Outcome.next.inj hs
    obtain rfl := Host.Outcome.next.inj hv
    rw [State.timelessView_err]
    split_ifs <;> simp [State.timelessView_rejectCommand, State.timelessView_absorbDin, hp]
  | digest =>
    obtain rfl := Host.Outcome.next.inj hs
    obtain rfl := Host.Outcome.next.inj hv
    rw [State.timelessView_err]
    split_ifs <;> simp [State.timelessView_computeDigest, hp]

/-- Every instruction that starts at once does to the view what it does to the state. -/
theorem exec_timelessView {i : Instr} {s t u : State} (hi : s.StartsAtOnce i) (hs : exec i s = .next t)
    (hv : exec i s.timelessView = .next u) : t.timelessView = u.timelessView := by
  have hidle : waitsForIdle i = true → s.phase = .idle := by
    intro hw
    exact hi.resolve_right (by simp [hw])
  cases i
  case nop => exact exec_command_timelessView .nop (hidle rfl) hs hv
  case init => exact exec_command_timelessView .init (hidle rfl) hs hv
  case absorb len => exact exec_command_timelessView (.absorb len) (hidle rfl) hs hv
  case digest => exact exec_command_timelessView .digest (hidle rfl) hs hv
  case wrCmd c =>
    cases hc : decodeCommand c with
    | command cmd =>
      rw [exec_wrCmd_command c cmd _ hc] at hs hv
      exact exec_command_timelessView cmd (hidle rfl) hs hv
    | error code =>
      simp only [exec, execWrCmd, hc, Host.Outcome.next.injEq] at hs hv
      subst hs hv
      simp [State.timelessView_rejectCommand, hidle rfl]
  case rdDout0 | rdDout1 | rdDout2 | rdDout3 | rdDout4 | rdDout5 | rdDout6 | rdDout7 =>
    obtain rfl := Host.Outcome.next.inj hs
    obtain rfl := Host.Outcome.next.inj hv
    simp [State.timelessView_readDout, hidle rfl]
  all_goals
    obtain rfl := Host.Outcome.next.inj hs
    obtain rfl := Host.Outcome.next.inj hv
    simp

/-- Two states with one view take the same instruction, each after its wait, to states with one view. -/
theorem exec_waitFor_sameView {i : Instr} {s t s' t' : State} (h : s.timelessView = t.timelessView)
    (hs : exec i (s.waitFor i) = .next s') (ht : exec i (t.waitFor i) = .next t') :
    s'.timelessView = t'.timelessView := by
  obtain ⟨u, hu⟩ := exec_next i s.timelessView
  have hsu := exec_timelessView (s.startsAtOnce_waitFor i) hs (by rw [State.timelessView_waitFor, hu])
  have htu := exec_timelessView (t.startsAtOnce_waitFor i) ht (by rw [State.timelessView_waitFor, ← h, hu])
  exact hsu.trans htu.symm

/-- A reset leaves of the view the host's side only. -/
theorem State.timelessView_resetEdge (s : State) : s.resetEdge.timelessView =
    { State.reset with host := s.timelessView.host, responses := s.timelessView.responses } := by
  rw [State.timelessView_of_idle s.resetEdge rfl, s.timelessView_host]; rfl

/-- Two states with one view accept a transaction into states with one view. -/
theorem acceptTransaction_sameView {x : Transaction} {s t s' t' : State} (h : s.timelessView = t.timelessView)
    (hs : s.acceptTransaction x = .next s') (ht : t.acceptTransaction x = .next t') :
    s'.timelessView = t'.timelessView := by
  unfold State.acceptTransaction at hs ht
  cases hx : decodeTransaction x with
  | instr i =>
    rw [hx] at hs ht
    exact exec_waitFor_sameView h hs ht
  | rejected r =>
    rw [hx] at hs ht
    obtain rfl := Host.Outcome.next.inj hs
    obtain rfl := Host.Outcome.next.inj ht
    simp [h]

theorem step_nil {s : State} (h : s.host = []) : step s = .next s := by
  unfold step State.takeInput; rw [h]

theorem step_idle {s : State} {rest : List HostInput} (h : s.host = .idle :: rest) :
    step s = .next { s with host := rest } := by
  unfold step State.takeInput; rw [h]

theorem step_rst {s : State} {held : Option Transaction} {rest : List HostInput} (h : s.host = .rst held :: rest) :
    step s = .next ({ s with host := rest } : State).resetEdge := by
  unfold step State.takeInput; rw [h]

theorem step_present {s : State} {x : Transaction} {rest : List HostInput} (h : s.host = .present x :: rest) :
    step s = ({ s with host := rest } : State).acceptTransaction x := by
  unfold step State.takeInput; rw [h]

/-- Two states with one view step to states with one view (R330). -/
theorem step_sameView {s t s' t' : State} (h : s.timelessView = t.timelessView) (hs : step s = .next s')
    (ht : step t = .next t') : s'.timelessView = t'.timelessView := by
  have hhost : t.host = s.host := by rw [← s.timelessView_host, h, t.timelessView_host]
  have hrest : ∀ rest, ({ s with host := rest } : State).timelessView = ({ t with host := rest } : State).timelessView := by
    intro rest; rw [State.timelessView_withHost rest s, State.timelessView_withHost rest t, h]
  cases hl : s.host with
  | nil =>
    rw [step_nil hl] at hs
    rw [step_nil (hhost.trans hl)] at ht
    obtain rfl := Host.Outcome.next.inj hs
    obtain rfl := Host.Outcome.next.inj ht
    exact h
  | cons input rest =>
    cases input with
    | present x =>
      rw [step_present hl] at hs
      rw [step_present (hhost.trans hl)] at ht
      exact acceptTransaction_sameView (hrest rest) hs ht
    | idle =>
      rw [step_idle hl] at hs
      rw [step_idle (hhost.trans hl)] at ht
      obtain rfl := Host.Outcome.next.inj hs
      obtain rfl := Host.Outcome.next.inj ht
      exact hrest rest
    | rst held =>
      rw [step_rst hl] at hs
      rw [step_rst (hhost.trans hl)] at ht
      obtain rfl := Host.Outcome.next.inj hs
      obtain rfl := Host.Outcome.next.inj ht
      rw [State.timelessView_resetEdge, State.timelessView_resetEdge, hrest]

end Sys2Proof.Machine
end

section
/-! From an idle engine, the start of a permutation followed by the wait is the whole effect of the command (R331). -/
namespace Sys2Proof.Machine

/-- Absorbing bytes moves BUF_LEN on, mod 136. -/
theorem absorbBytes_bufLen (l : List Byte) : ∀ s : State,
    (absorbBytes l s).bufLen.val = (s.bufLen.val + l.length) % 136 := by
  induction l with
  | nil => intro s; have := s.bufLen.isLt; simp [absorbBytes]; omega
  | cons b l ih => intro s; rw [absorbBytes_cons, ih, absorbByte_bufLen, List.length_cons]; omega

/-- Placing one byte more writes the place after those before it. -/
theorem placePending_append_singleton (l : List Byte) (b : Byte) (buf : Vector Byte 135) (h : l.length < 135) :
    placePending (l ++ [b]) buf = (placePending l buf).set l.length b := by
  apply Vector.ext
  intro i hi
  rw [Vector.getElem_set]
  simp only [placePending, Vector.getElem_ofFn, List.getD_eq_getElem?_getD, List.getElem?_append]
  rcases Nat.lt_trichotomy i l.length with hlt | rfl | hgt
  · simp [hlt, Nat.ne_of_gt hlt]
  · simp
  · have hnot : ¬i < l.length := by omega
    have hpos : i - l.length ≠ 0 := by omega
    simp [hnot, Nat.ne_of_lt hgt, hpos]

/-- Bytes absorbed into an empty BUF that do not fill it are placed at its start (R186, R331). -/
theorem absorbBytes_of_empty (l : List Byte) (s : State) (h0 : s.bufLen = 0) (hl : l.length ≤ 135) :
    absorbBytes l s = { s with buf := placePending l s.buf, bufLen := ⟨l.length, by omega⟩ } := by
  induction l using List.reverseRecOn with
  | nil =>
    rw [placePending_nil]
    obtain ⟨⟩ := s; subst h0; rfl
  | append_singleton l b ih =>
    have hlen : l.length < 135 := by simpa using hl
    rw [absorbBytes_append, ih (by omega), absorbBytes_cons, absorbByte_notFull _ _ hlen,
      placePending_append_singleton l b s.buf hlen]
    simp [absorbBytes]

/-- The bytes of an ABSORB that completes a block: those that fill BUF, the completing one, and those after it. -/
theorem absorbBytes_through_block (bytes : List Byte) (s : State) (room : Nat) (hroom : room = 135 - s.bufLen.val)
    (hlt : room < bytes.length) :
    absorbBytes bytes s = absorbBytes (bytes.drop (room + 1))
      { absorbBytes (bytes.take room) s with
        S := keccakF (absorbBlock (absorbBytes (bytes.take room) s).S
          ((absorbBytes (bytes.take room) s).buf.push (bytes.getD room 0)))
        bufLen := 0 } := by
  have hb := s.bufLen.isLt
  have hsplit : bytes = bytes.take room ++ bytes.getD room 0 :: bytes.drop (room + 1) := by
    rw [List.getD_eq_getElem _ _ hlt, List.getElem_cons_drop, List.take_append_drop]
  have hfull : ¬(absorbBytes (bytes.take room) s).bufLen.val < 135 := by
    rw [absorbBytes_bufLen, List.length_take]; omega
  conv_lhs => rw [hsplit]
  rw [absorbBytes_append, absorbBytes_cons, absorbByte_completing _ _ hfull]

/-- R331: from an idle engine, the start of an ABSORB that completes a block and then the wait is the whole ABSORB. -/
theorem State.waitIdle_startAbsorb (n : Nat) (s : State) (hn : n ≤ 8) (hc : s.completesBlock n = true)
    (hp : s.phase = .idle) (hr : s.round = 0) (hd : s.pend = []) : (s.startAbsorb n).waitIdle = s.absorbDin n := by
  have hb := s.bufLen.isLt
  have hlen := dinBytes_length n hn s.din
  have hfit : 136 ≤ s.bufLen.val + n := by simpa [State.completesBlock] using hc
  have hrest : ((dinBytes n s.din).drop (135 - s.bufLen.val + 1)).length ≤ 135 := by
    rw [List.length_drop]; omega
  have hlast : Fin.ofNat 136 ((dinBytes n s.din).drop (135 - s.bufLen.val + 1)).length =
      ⟨((dinBytes n s.din).drop (135 - s.bufLen.val + 1)).length, by omega⟩ := Fin.ext (Nat.mod_eq_of_lt (by omega))
  have hsome : 1 ≤ n := by omega
  rw [State.waitIdle_of_permS _ (by rw [State.startAbsorb_frame])]
  unfold State.absorbDin State.startAbsorb
  simp only
  rw [absorbBytes_through_block (dinBytes n s.din) s _ rfl (by omega), absorbBytes_of_empty _ _ rfl hrest,
    absorbBytes_frame ((dinBytes n s.din).take _)]
  simp only [Fin.val_zero, remainingRounds_zero, digestValidAfterAbsorb, if_pos hsome, hlast, hp, hr, hd]

/-- R331: from an idle engine, the start of a DIGEST and then the wait is the whole DIGEST. -/
theorem State.waitIdle_startDigest (s : State) (hp : s.phase = .idle) (hr : s.round = 0) :
    s.startDigest.waitIdle = s.computeDigest := by
  rw [State.waitIdle_of_permW s.startDigest rfl]
  simp [State.startDigest, State.computeDigest, absorbFinal, remainingRounds_zero, hp, hr]

end Sys2Proof.Machine
end

section
/-! A clock edge shows in the timeless view what one step of the atomic machine shows, or nothing (R330); so runs of clocked
blocks end in the view in which the atomic machine ends. -/
namespace Sys2Proof.Machine

/-- After the wait for BUSY = 0 the engine is at round 0 with nothing pending (R45): the part of `State.Inv` that the clocked
block and the atomic machine need to agree. -/
def State.Settles (s : State) : Prop := s.timelessView.round = 0 ∧ s.timelessView.pend = []

theorem State.Settles.of_inv {s : State} (h : s.Inv) : s.Settles := by
  unfold State.Settles State.timelessView
  cases hp : s.phase with
  | idle => rw [s.waitIdle_of_idle hp]; exact h.idleEngine hp
  | permS => rw [s.waitIdle_of_permS hp]; exact ⟨rfl, rfl⟩
  | permW => rw [s.waitIdle_of_permW hp]; exact ⟨rfl, h.digestEngine hp⟩

theorem State.Settles.of_sameView {s t : State} (hs : s.Settles) (h : t.timelessView = s.timelessView) : t.Settles := by
  unfold State.Settles; rw [h]; exact hs

theorem State.settles_iff_of_idle {s : State} (hp : s.phase = .idle) : s.Settles ↔ s.round = 0 ∧ s.pend = [] := by
  unfold State.Settles; rw [s.timelessView_of_idle hp]

/-- With the engine idle, an update that does not write it keeps it settled. -/
theorem State.Settles.of_idle {s t : State} (hs : s.Settles) (hp : s.phase = .idle) (htp : t.phase = s.phase)
    (hr : t.round = s.round) (hd : t.pend = s.pend) : t.Settles := by
  rw [State.settles_iff_of_idle hp] at hs
  rw [State.settles_iff_of_idle (htp.trans hp), hr, hd]
  exact hs

theorem State.Settles.rejectCommand {s : State} (hs : s.Settles) (hp : s.phase = .idle) (code : ErrorCode) :
    (s.rejectCommand code).Settles := by
  rw [State.rejectCommand_eq]; exact hs.of_idle hp rfl rfl rfl

/-- A command leaves the engine of an idle block settled. -/
theorem State.Settles.exec_command {s t : State} (hs : s.Settles) (hp : s.phase = .idle) {c : Word} {cmd : Command}
    (hc : decodeCommand c = .command cmd) (h : exec cmd.toInstr s = .next t) : t.Settles := by
  rcases command_cases c cmd hc s t h with
    ⟨_, _, rfl⟩ | ⟨_, _, rfl⟩ | ⟨len, _, _, _, ⟨_, rfl⟩ | ⟨_, rfl⟩⟩ | ⟨_, _, ⟨_, rfl⟩ | ⟨_, rfl⟩⟩
  case inr.inr.inl.inr => rw [State.absorbDin_frame]; exact hs.of_idle hp rfl rfl rfl
  all_goals exact hs.of_idle hp rfl rfl rfl

/-- An instruction that starts at once leaves the engine settled. -/
theorem State.Settles.exec {i : Instr} {s t : State} (hs : s.Settles) (hi : s.StartsAtOnce i)
    (h : exec i s = .next t) : t.Settles := by
  have hidle : waitsForIdle i = true → s.phase = .idle := fun hw => hi.resolve_right (by simp [hw])
  rcases exec_cases i s t h with ⟨c, cmd, hc, hcmd, hx⟩ | ⟨len, _, rfl, rfl⟩ | ⟨c, code, _, rfl, rfl⟩ | ⟨_, rfl⟩ |
    ⟨j, rfl, rfl⟩ | ⟨off, v, _, _, rfl⟩ | ⟨v, _, rfl⟩ | ⟨v, _, rfl⟩
  · have hw : waitsForIdle i = true := by rcases hcmd with rfl | rfl <;> cases cmd <;> rfl
    exact hs.exec_command (hidle hw) hc hx
  · exact hs.rejectCommand (hidle rfl) _
  · exact hs.rejectCommand (hidle rfl) _
  · simpa [State.Settles] using hs
  · have hw : waitsForIdle #v[Instr.rdDout0, .rdDout1, .rdDout2, .rdDout3, .rdDout4, .rdDout5, .rdDout6, .rdDout7][j] =
        true := by fin_cases j <;> rfl
    exact hs.of_idle (hidle hw) rfl rfl rfl
  · simpa [State.Settles] using hs
  · simpa [State.Settles] using hs
  · simpa [State.Settles] using hs

theorem State.Settles.withHost {s : State} (hs : s.Settles) (rest : List HostInput) :
    ({ s with host := rest } : State).Settles := by
  unfold State.Settles; rw [State.timelessView_withHost rest s]; exact hs

/-- A step of the atomic machine leaves the engine settled. -/
theorem State.Settles.step {s t : State} (hs : s.Settles) (h : step s = .next t) : t.Settles := by
  cases hl : s.host with
  | nil => rw [step_nil hl] at h; obtain rfl := Host.Outcome.next.inj h; exact hs
  | cons input rest =>
    cases input with
    | idle => rw [step_idle hl] at h; obtain rfl := Host.Outcome.next.inj h; exact hs.withHost rest
    | rst held =>
      rw [step_rst hl] at h
      obtain rfl := Host.Outcome.next.inj h
      rw [State.settles_iff_of_idle rfl]; exact ⟨rfl, rfl⟩
    | present x =>
      rw [step_present hl, State.acceptTransaction] at h
      cases hx : decodeTransaction x with
      | instr i =>
        rw [hx] at h
        exact ((hs.withHost rest).of_sameView (State.timelessView_waitFor i _)).exec (State.startsAtOnce_waitFor i _) h
      | rejected r =>
        rw [hx] at h
        obtain rfl := Host.Outcome.next.inj h
        simpa [State.Settles] using hs

/-- The acceptance edge of an access that does not wait has its whole effect, but for BUSY in a STATUS read (R331). -/
theorem acceptEdge_of_not_waits {i : Instr} {s t : State} (hi : waitsForIdle i = false) (h : acceptEdge i s = .next t) :
    exec i s = .next t ∨ (i = .rdStatus ∧ t = s.readStatusClocked) := by
  cases i
  case rdStatus => exact .inr ⟨rfl, (Host.Outcome.next.inj h).symm⟩
  case absorb | digest | wrCmd => cases hi
  all_goals exact .inl h

/-- R331: what an instruction shows at its acceptance edge, with the engine's rounds to come, is what it shows when it is
executed whole. -/
theorem acceptEdge_sameView {i : Instr} {s t u : State} (hs : s.Settles) (hi : s.StartsAtOnce i)
    (ht : acceptEdge i s = .next t) (hu : exec i s = .next u) : t.timelessView = u.timelessView := by
  rcases hi with hp | hw
  · obtain ⟨hr, hd⟩ := (State.settles_iff_of_idle hp).1 hs
    rcases acceptEdge_cases i s t ht with ⟨h, _⟩ | ⟨rfl, rfl⟩ | ⟨len, hlen, herr, hc, rfl, hx⟩ | ⟨herr, rfl, hx⟩
    · rw [Host.Outcome.next.inj (h.symm.trans hu)]
    · obtain rfl := Host.Outcome.next.inj hu
      simp
    · have hwhole : exec (.absorb len) s = .next ((s.absorbDin len.toNat).endCommand true) := by
        simp [exec, execAbsorb, herr, hc, Nat.not_lt.2 hlen]
      obtain rfl := Host.Outcome.next.inj (hwhole.symm.trans (hx.symm.trans hu))
      apply State.timelessView_eq_of_waitIdle_eq
      rw [State.waitIdle_endCommand, State.waitIdle_endCommand, s.waitIdle_startAbsorb _ hlen hc hp hr hd,
        State.waitIdle_of_idle _ (by rw [State.absorbDin_frame]; exact hp)]
    · have hwhole : exec .digest s = .next (s.computeDigest.endCommand true) := by simp [exec, execDigest, herr]
      obtain rfl := Host.Outcome.next.inj (hwhole.symm.trans (hx.symm.trans hu))
      apply State.timelessView_eq_of_waitIdle_eq
      rw [State.waitIdle_endCommand, State.waitIdle_endCommand, s.waitIdle_startDigest hp hr,
        State.waitIdle_of_idle s.computeDigest hp]
  · rcases acceptEdge_of_not_waits hw ht with h | ⟨rfl, rfl⟩
    · rw [Host.Outcome.next.inj (h.symm.trans hu)]
    · obtain rfl := Host.Outcome.next.inj hu
      simp

/-- A transaction that is ready starts at once. -/
theorem State.startsAtOnce_of_ready {x : Transaction} {i : Instr} {s : State} (hx : decodeTransaction x = .instr i)
    (h : s.ready x = true) : s.StartsAtOnce i := by
  simp only [State.ready, hx, Bool.not_eq_true', Bool.and_eq_false_iff] at h
  exact h.imp_left s.busy_eq_false_iff.1

/-- A transaction accepted at an edge shows what the atomic machine shows for it. -/
theorem acceptTransactionEdge_sameView {x : Transaction} {s t u : State} (hs : s.Settles) (hr : s.ready x = true)
    (ht : s.acceptTransactionEdge x = .next t) (hu : s.acceptTransaction x = .next u) :
    t.timelessView = u.timelessView := by
  unfold State.acceptTransactionEdge at ht
  unfold State.acceptTransaction at hu
  cases hx : decodeTransaction x with
  | instr i =>
    rw [hx] at ht hu
    have hi := State.startsAtOnce_of_ready hx hr
    simp only [hi.waitFor_eq] at hu
    exact acceptEdge_sameView hs hi ht hu
  | rejected r =>
    rw [hx] at ht hu
    rw [Host.Outcome.next.inj (ht.symm.trans hu)]

/-- The engine's rounds at an edge change nothing in the view. -/
theorem engineAfter_sameView {n : Nat} {running : Bool} {o : Host.Outcome State Fault Refusal} {t : State}
    (h : engineAfter n running o = .next t) : ∃ s, o = .next s ∧ t.timelessView = s.timelessView := by
  cases o with
  | next s =>
    obtain rfl := Host.Outcome.next.inj h
    refine ⟨s, rfl, ?_⟩
    split <;> simp
  | fault r => cases h
  | refused r => cases h

theorem acceptTransaction_next (x : Transaction) (s : State) : ∃ t, s.acceptTransaction x = .next t := by
  unfold State.acceptTransaction
  split
  · exact exec_next _ _
  · exact ⟨_, rfl⟩

theorem clockEdge_nil (rpc : Config.RoundsPerCycle) {s : State} (h : s.host = []) :
    clockEdge rpc s = .next (s.engineEdge rpc.toNat) := by
  unfold clockEdge; rw [h]

theorem clockEdge_idle (rpc : Config.RoundsPerCycle) {s : State} {rest : List HostInput} (h : s.host = .idle :: rest) :
    clockEdge rpc s = .next (({ s with host := rest } : State).engineEdge rpc.toNat) := by
  unfold clockEdge; rw [h]

theorem clockEdge_rst (rpc : Config.RoundsPerCycle) {s : State} {held : Option Transaction} {rest : List HostInput}
    (h : s.host = .rst held :: rest) : clockEdge rpc s = .next ({ s with host := rest } : State).resetEdge := by
  unfold clockEdge; rw [h]

theorem clockEdge_accepted (rpc : Config.RoundsPerCycle) {s : State} {x : Transaction} {rest : List HostInput}
    (h : s.host = .present x :: rest) (hr : s.ready x = true) :
    clockEdge rpc s = engineAfter rpc.toNat s.busy (({ s with host := rest } : State).acceptTransactionEdge x) := by
  unfold clockEdge; rw [h]; exact if_pos hr

theorem clockEdge_held (rpc : Config.RoundsPerCycle) {s : State} {x : Transaction} {rest : List HostInput}
    (h : s.host = .present x :: rest) (hr : s.ready x = false) :
    clockEdge rpc s = .next (s.engineEdge rpc.toNat) := by
  unfold clockEdge; rw [h]; exact if_neg (by rw [State.readyPort_present, hr]; decide)

/-- A transaction is held only while the engine runs. -/
theorem State.busy_of_not_ready {x : Transaction} {s : State} (h : s.ready x = false) : s.busy = true := by
  unfold State.ready at h
  split at h
  · simp only [Bool.not_eq_false', Bool.and_eq_true] at h
    exact h.1
  · cases h

/-- R330: a clock edge shows nothing outside time, and then nothing is presented or the engine runs, or it shows what one step
of the atomic machine does. -/
theorem clockEdge_refines_step {rpc : Config.RoundsPerCycle} {s t : State} (hs : s.Settles)
    (h : clockEdge rpc s = .next t) :
    (t.timelessView = s.timelessView ∧ (s.host = [] ∨ s.busy = true)) ∨
      ∃ u, step s = .next u ∧ t.timelessView = u.timelessView := by
  cases hl : s.host with
  | nil =>
    rw [clockEdge_nil rpc hl] at h
    obtain rfl := Host.Outcome.next.inj h
    exact .inl ⟨s.timelessView_engineEdge _, .inl rfl⟩
  | cons input rest =>
    cases input with
    | idle =>
      rw [clockEdge_idle rpc hl] at h
      obtain rfl := Host.Outcome.next.inj h
      exact .inr ⟨_, step_idle hl, State.timelessView_engineEdge _ _⟩
    | rst held =>
      rw [clockEdge_rst rpc hl] at h
      obtain rfl := Host.Outcome.next.inj h
      exact .inr ⟨_, step_rst hl, rfl⟩
    | present x =>
      cases hr : s.ready x with
      | false =>
        rw [clockEdge_held rpc hl hr] at h
        obtain rfl := Host.Outcome.next.inj h
        exact .inl ⟨s.timelessView_engineEdge _, .inr (State.busy_of_not_ready hr)⟩
      | true =>
        rw [clockEdge_accepted rpc hl hr] at h
        obtain ⟨a, ha, hta⟩ := engineAfter_sameView h
        obtain ⟨u, hu⟩ := acceptTransaction_next x { s with host := rest }
        exact .inr ⟨u, (step_present hl).trans hu,
          hta.trans (acceptTransactionEdge_sameView (hs.withHost rest) hr ha hu)⟩

/-- A step takes the first of the host's inputs (assumption 1). -/
theorem step_host {s t : State} (h : step s = .next t) : t.host = s.host.tail := by
  cases hl : s.host with
  | nil => rw [step_nil hl] at h; obtain rfl := Host.Outcome.next.inj h; exact hl
  | cons input rest =>
    cases input with
    | idle => rw [step_idle hl] at h; obtain rfl := Host.Outcome.next.inj h; rfl
    | rst held => rw [step_rst hl] at h; obtain rfl := Host.Outcome.next.inj h; rfl
    | present x =>
      rw [step_present hl, State.acceptTransaction] at h
      cases hx : decodeTransaction x with
      | instr i =>
        rw [hx] at h
        have hwait : (({ s with host := rest } : State).waitFor i).host = rest := by
          unfold State.waitFor; split <;> simp
        exact (exec_host i _ t h).trans hwait
      | rejected r => rw [hx] at h; obtain rfl := Host.Outcome.next.inj h; rfl

/-- A run begins with its first step. -/
theorem run_succ {M : Host.Core} {k : Nat} {s u : M.State} (h : M.run (k + 1) s = .next u) :
    ∃ a, M.step s = .next a ∧ M.run k a = .next u := by
  unfold Host.Core.run at h
  split at h
  · exact ⟨_, ‹_›, h⟩
  · cases h
  · cases h

/-- A run of a clocked block begins with its first edge. -/
theorem clockEdges_succ {rpc : Config.RoundsPerCycle} {n : Nat} {s t : State} (h : clockEdges rpc (n + 1) s = .next t) :
    ∃ a, clockEdge rpc s = .next a ∧ clockEdges rpc n a = .next t := by
  unfold clockEdges at h
  split at h
  · exact ⟨_, ‹_›, h⟩
  · cases h
  · cases h

/-- R330: a clocked block that has taken all inputs ends in the view in which the atomic machine does, when they begin in one
view: each edge is a step of the atomic machine or none. -/
theorem clockEdges_refine_run {rpc : Config.RoundsPerCycle} (n : Nat) : ∀ {c a t u : State}, c.Settles →
    c.timelessView = a.timelessView → clockEdges rpc n c = .next t → t.host = [] →
    Host.Core.run core a.host.length a = .next u → t.timelessView = u.timelessView := by
  induction n with
  | zero =>
    intro c a t u _ hview ht hend hu
    obtain rfl := Host.Outcome.next.inj ht
    have hhost : a.host = [] := by rw [← a.timelessView_host, ← hview, c.timelessView_host, hend]
    rw [hhost] at hu
    obtain rfl := Host.Outcome.next.inj hu
    exact hview
  | succ n ih =>
    intro c a t u hs hview ht hend hu
    obtain ⟨c', hedge, ht⟩ := clockEdges_succ ht
    have hstutter : c'.timelessView = c.timelessView → t.timelessView = u.timelessView := fun h =>
      ih (hs.of_sameView h) (h.trans hview) ht hend hu
    rcases clockEdge_refines_step hs hedge with ⟨h, _⟩ | ⟨w, hw, hview'⟩
    · exact hstutter h
    · cases hl : a.host with
      | nil =>
        have hc : c.host = [] := by rw [← c.timelessView_host, hview, a.timelessView_host, hl]
        obtain rfl := Host.Outcome.next.inj ((step_nil hc).symm.trans hw)
        exact hstutter hview'
      | cons input rest =>
        rw [hl, List.length_cons] at hu
        obtain ⟨a', ha', hu⟩ := run_succ (M := core) hu
        have hrest : a'.host = rest := by rw [step_host ha', hl, List.tail_cons]
        exact ih ((hs.step hw).of_sameView hview') (hview'.trans (step_sameView hview hw ha')) ht hend
          (by rw [hrest]; exact hu)

end Sys2Proof.Machine

open Sys2Proof.Machine in
/-- Settles O54: each of the two clocked blocks ends in the view in which the atomic machine does. -/
theorem answersDoNotDependOnTime : Obligations.AnswersDoNotDependOnTime := by
  intro rpc rpc' n n' s t t' u hinv ht hend ht' hend' hu
  have hs := State.Settles.of_inv hinv
  have htu := clockEdges_refine_run n hs rfl ht hend hu
  have htu' := clockEdges_refine_run n' hs rfl ht' hend' hu
  exact ⟨htu.trans htu'.symm, htu⟩
end

section
/-! The reset state (R49), and the reads of STATUS (R35, R240) and DOUT (R243). -/
namespace Sys2Proof.Machine

/-- Bit vectors written side by side are the digits of the number they make. -/
theorem toNat_append_eq {m n : Nat} (x : BitVec m) (y : BitVec n) : (x ++ y).toNat = x.toNat * 2 ^ n + y.toNat := by
  rw [BitVec.toNat_append, ← Nat.shiftLeft_add_eq_or_of_lt y.isLt, Nat.shiftLeft_eq]

/-- The STATUS word as a number: each field at its place (R35). -/
theorem statusWord_toNat (busy : Bool) (s : State) : (statusWord busy s).toNat =
    s.bufLen.val * 2 ^ 8 + s.errcode.toNat * 2 ^ 4 + s.err.toNat * 4 + s.digestValid.toNat * 2 + busy.toNat := by
  have hlen := s.bufLen.isLt
  have hcode := s.errcode.isLt
  have herr := s.err.toNat_lt
  have hvalid := s.digestValid.toNat_lt
  have hbusy := busy.toNat_lt
  simp only [statusWord, BitVec.toNat_setWidth, toNat_append_eq, BitVec.toNat_ofNat, BitVec.toNat_ofBool,
    BitVec.ofNat_eq_ofNat]
  omega

/-- A STATUS read, whatever runs, by what it finds BUSY to be (R338). -/
theorem State.readStatus_of_notMayBusy (d : Bool) (s : State) (hm : s.mayBusy = false) :
    s.readStatus d = s.respond (.read 0x0C (statusWord false s) false) := by
  simp [State.readStatus, hm]

theorem State.readStatus_drawnBusy (s : State) (hm : s.mayBusy = true) :
    s.readStatus true = ({ s with draws := s.draws + 1 } : State).respond (.read 0x0C (statusWord true s) false) := by
  simp [State.readStatus, hm]

theorem State.readStatus_drawnIdle (s : State) (hm : s.mayBusy = true) : s.readStatus false =
    ({ s.waitIdle with mayBusy := false, draws := s.draws + 1 } : State).respond
      (.read 0x0C (statusWord false s) false) := by
  simp [State.readStatus, hm]

/-- The port ready for a legal access (R72). -/
theorem State.ready_of_instr {x : Transaction} {i : Instr} (h : decodeTransaction x = .instr i) (s : State) :
    s.ready x = !(s.busy && waitsForIdle i) := by
  unfold State.ready; rw [h]

/-- The instruction that reads DOUTj. -/
def doutRead (j : Fin 8) : Instr :=
  #v[.rdDout0, .rdDout1, .rdDout2, .rdDout3, .rdDout4, .rdDout5, .rdDout6, .rdDout7][j]

theorem waitsForIdle_doutRead (j : Fin 8) : waitsForIdle (doutRead j) = true := by fin_cases j <;> rfl

theorem exec_doutRead (j : Fin 8) (s : State) : exec (doutRead j) s = .next (s.readDout j) := by fin_cases j <;> rfl

theorem decodeTransaction_doutRead (j : Fin 8) (w : Word) :
    decodeTransaction { we := false, addr := BitVec.ofNat 6 (0x20 + 4 * j.val), wdata := w } = .instr (doutRead j) := by
  fin_cases j <;> simp [decodeTransaction, Transaction.key, decodeKey, doutRead]

end Sys2Proof.Machine

open Sys2Proof Sys2Proof.Machine

/-- Settles O11: the reset state is written out; its lanes and bytes are those of a constant matrix or vector. -/
theorem resetValues : Obligations.ResetValues := by
  refine ⟨fun x y => ⟨?_, ?_⟩, fun i => ?_, rfl, rfl, fun i => ?_, rfl, rfl, rfl, rfl, rfl, rfl, rfl, rfl⟩
  · exact LaneMatrix.zero_getElem x y x.isLt y.isLt
  · exact LaneMatrix.zero_getElem x y x.isLt y.isLt
  · exact Vector.getElem_replicate i.isLt
  · exact Vector.getElem_replicate i.isLt

/-- Settles O16: MAYBUSY and the draw decide which of the three reads it is; the word shows the fields as they stand. -/
theorem statusRead : Obligations.StatusRead := by
  refine ⟨fun s w => ?_, fun s => ⟨s.mayBusy && Config.busyDraw s.draws, _, statusWord_toNat _ s, ?_, ?_, ?_⟩⟩
  · have hd : decodeTransaction { we := false, addr := 0x0C, wdata := w } = .instr .rdStatus := by
      simp [decodeTransaction, Transaction.key, decodeKey]
    exact ⟨hd, by rw [State.ready_of_instr hd, waitsForIdle, Bool.and_false, Bool.not_false]⟩
  · intro hm
    refine ⟨by simp [hm], ?_⟩
    simp [exec, execRdStatus, s.readStatus_of_notMayBusy _ hm, hm, State.respond]
  · intro hm hdraw
    simp only [hm, Bool.true_and] at hdraw
    simp [exec, execRdStatus, hdraw, s.readStatus_drawnBusy hm, hm, State.respond]
  · intro hm hdraw
    simp only [hm, Bool.true_and] at hdraw
    simp [exec, execRdStatus, hdraw, s.readStatus_drawnIdle hm, hm, State.respond]

/-- Settles O18: the eight reads are one read of the word at j, whose bytes are those of DOUTB. -/
theorem doutReads : Obligations.DoutReads := by
  refine ⟨fun s j w => ⟨decodeTransaction_doutRead j w, ?_⟩,
    fun s j => ⟨doutWord j s.doutb, exec_doutRead j s, fun k => wordOfBytes_byte _ k⟩⟩
  rw [State.ready_of_instr (decodeTransaction_doutRead j w), waitsForIdle_doutRead, Bool.and_true]

/-- Settles O48: after reset there is no error, the engine is idle at round 0, and DIGEST_VALID is 0. -/
theorem resetSatisfiesTheInvariant : Obligations.ResetSatisfiesTheInvariant where
  errCodeMatches := ⟨fun _ => rfl, fun _ => rfl⟩
  errCodeKnown := Nat.zero_le 3
  idleEngine _ := ⟨rfl, rfl⟩
  digestEngine _ := rfl
  absorbEngine := nofun
  busyKnown h := absurd rfl h
  digestCurrent := nofun
end

section
/-! Proofs for the statements about the state (10_state.md). First, the inversion of `exec` those statements turn on: an
instruction executes INIT, ABSORB or DIGEST, or it leaves the session alone. -/
namespace Sys2Proof.Machine

/-- `t` is left of `s` by what executes no INIT, ABSORB or DIGEST: a CmdError may have been recorded, and an idle engine is
left idle with the session it had. -/
structure State.LeavesSession (s t : State) : Prop where
  bufLen : t.bufLen = s.bufLen
  digestValid : t.digestValid = s.digestValid
  error : (t.err = s.err ∧ t.errcode = s.errcode) ∨
    (s.err = false ∧ t.err = true ∧ ∃ code, t.errcode = errorCodeBits code)
  session : s.phase = .idle → t.S = s.S ∧ t.buf = s.buf ∧ t.doutb = s.doutb ∧ t.phase = .idle

/-- The end of a CMD write that executed nothing. -/
theorem State.leavesSession_endCommand (b : Bool) (s : State) : s.LeavesSession (s.endCommand b) :=
  ⟨rfl, rfl, .inl ⟨rfl, rfl⟩, fun h => ⟨rfl, rfl, rfl, h⟩⟩

theorem State.leavesSession_respond (r : Response) (s : State) : s.LeavesSession (s.respond r) :=
  ⟨rfl, rfl, .inl ⟨rfl, rfl⟩, fun h => ⟨rfl, rfl, rfl, h⟩⟩

theorem State.leavesSession_rejectCommand (code : ErrorCode) (s : State) :
    s.LeavesSession (s.rejectCommand code) := by
  unfold State.rejectCommand
  split
  · exact s.leavesSession_endCommand false
  · have herr : s.err = false := by simpa using ‹¬s.err = true›
    exact ⟨rfl, rfl, .inr ⟨herr, rfl, code, rfl⟩, fun h => ⟨rfl, rfl, rfl, h⟩⟩

theorem State.leavesSession_readStatus (d : Bool) (s : State) : s.LeavesSession (s.readStatus d) := by
  obtain ⟨herr, hcode, hvalid, _, hlen, _⟩ := s.readStatus_session d
  refine ⟨hlen, hvalid, .inl ⟨herr, hcode⟩, fun h => ?_⟩
  rw [s.readStatus_of_idle d h]
  exact ⟨rfl, rfl, rfl, h⟩

/-- An instruction executes INIT, ABSORB or DIGEST, by its own term or by the CMD write of its word, or it leaves the session
alone and writes no more of DIN than a half the host gives (R284, R334). -/
theorem exec_executes_or_leaves {i : Instr} {s t : State} (h : exec i s = .next t) :
    ((i = .init ∨ i = .wrCmd 0x00000001) ∧ t = s.startSession.endCommand false) ∨
    (∃ len : BitVec 4, len.toNat ≤ 8 ∧ s.err = false ∧
      (i = .absorb len ∨ i = .wrCmd (BitVec.ofNat 32 (len.toNat * 16 + 2))) ∧
      t = (s.absorbDin len.toNat).endCommand (s.completesBlock len.toNat)) ∨
    (s.err = false ∧ (i = .digest ∨ i = .wrCmd 0x00000003) ∧ t = s.computeDigest.endCommand true) ∨
    (s.LeavesSession t ∧ (t.din = s.din ∨ ∃ v, i = .wrDinLo v ∨ i = .wrDinHi v)) := by
  rcases exec_cases i s t h with ⟨c, cmd, hc, hi, hx⟩ | ⟨_, _, _, rfl⟩ | ⟨_, _, _, _, rfl⟩ | ⟨_, rfl⟩ | ⟨j, _, rfl⟩ |
    ⟨_, _, _, _, rfl⟩ | ⟨v, hi, rfl⟩ | ⟨v, hi, rfl⟩
  · rcases command_cases c cmd hc s t hx with ⟨_, _, rfl⟩ | ⟨rfl, rfl, ht⟩ |
      ⟨len, hlen, rfl, rfl, ⟨_, rfl⟩ | ⟨herr, ht⟩⟩ | ⟨rfl, rfl, ⟨_, rfl⟩ | ⟨herr, ht⟩⟩
    · exact .inr (.inr (.inr ⟨s.leavesSession_endCommand false, .inl rfl⟩))
    · exact .inl ⟨hi, ht⟩
    · exact .inr (.inr (.inr ⟨s.leavesSession_endCommand false, .inl rfl⟩))
    · exact .inr (.inl ⟨len, hlen, herr, hi, ht⟩)
    · exact .inr (.inr (.inr ⟨s.leavesSession_endCommand false, .inl rfl⟩))
    · exact .inr (.inr (.inl ⟨herr, hi, ht⟩))
  · exact .inr (.inr (.inr ⟨s.leavesSession_rejectCommand _, .inl (by rw [State.rejectCommand_eq])⟩))
  · exact .inr (.inr (.inr ⟨s.leavesSession_rejectCommand _, .inl (by rw [State.rejectCommand_eq])⟩))
  · obtain ⟨_, _, _, hdin, _, _⟩ := s.readStatus_session (Config.busyDraw s.draws)
    exact .inr (.inr (.inr ⟨s.leavesSession_readStatus _, .inl hdin⟩))
  · exact .inr (.inr (.inr ⟨⟨rfl, rfl, .inl ⟨rfl, rfl⟩, fun h => ⟨rfl, rfl, rfl, h⟩⟩, .inl rfl⟩))
  · exact .inr (.inr (.inr ⟨s.leavesSession_respond _, .inl rfl⟩))
  · exact .inr (.inr (.inr ⟨⟨rfl, rfl, .inl ⟨rfl, rfl⟩, fun h => ⟨rfl, rfl, rfl, h⟩⟩, .inr ⟨v, .inl hi⟩⟩))
  · exact .inr (.inr (.inr ⟨⟨rfl, rfl, .inl ⟨rfl, rfl⟩, fun h => ⟨rfl, rfl, rfl, h⟩⟩, .inr ⟨v, .inr hi⟩⟩))

/-! The fields an ABSORB from DIN leaves, and DIGEST_VALID after it. -/
@[simp] theorem State.absorbDin_doutb (n : Nat) (s : State) : (s.absorbDin n).doutb = s.doutb := by
  rw [State.absorbDin_frame]
@[simp] theorem State.absorbDin_din (n : Nat) (s : State) : (s.absorbDin n).din = s.din := by
  rw [State.absorbDin_frame]
@[simp] theorem State.absorbDin_err (n : Nat) (s : State) : (s.absorbDin n).err = s.err := by
  rw [State.absorbDin_frame]
@[simp] theorem State.absorbDin_errcode (n : Nat) (s : State) : (s.absorbDin n).errcode = s.errcode := by
  rw [State.absorbDin_frame]
@[simp] theorem State.absorbDin_phase (n : Nat) (s : State) : (s.absorbDin n).phase = s.phase := by
  rw [State.absorbDin_frame]
@[simp] theorem State.absorbDin_digestValid (n : Nat) (s : State) :
    (s.absorbDin n).digestValid = digestValidAfterAbsorb n s.digestValid := by
  rw [State.absorbDin_frame]

/-- An ABSORB of at least one byte clears DIGEST_VALID (R233). -/
theorem digestValidAfterAbsorb_of_pos {n : Nat} (h : 0 < n) (v : Bool) : digestValidAfterAbsorb n v = false := if_pos h

end Sys2Proof.Machine

open Sys2Proof Sys2Proof.Machine

/-- Settles O29: INIT clears the error, a CmdError is recorded only while ERR = 0, and the rest leaves both fields. -/
theorem onlyInitLeavesTheErrorState : Obligations.OnlyInitLeavesTheErrorState := by
  intro i s t herr h
  rcases exec_executes_or_leaves h with ⟨hi, rfl⟩ | ⟨_, _, hok, _⟩ | ⟨hok, _⟩ | ⟨hq, _⟩
  · exact .inr ⟨hi, rfl, rfl⟩
  · simp [herr] at hok
  · simp [herr] at hok
  · rcases hq.error with ⟨he, hc⟩ | ⟨hok, _⟩
    · exact .inl ⟨he.trans herr, hc⟩
    · simp [herr] at hok

/-- Settles O30: an executed INIT, ABSORB or DIGEST, of which an ABSORB of no bytes leaves DIGEST_VALID too. -/
theorem digestValidTransitions : Obligations.DigestValidTransitions := by
  intro i s t h hne
  rcases exec_executes_or_leaves h with ⟨hi, rfl⟩ | ⟨len, hlen, herr, hi, rfl⟩ | ⟨herr, hi, rfl⟩ | ⟨hq, _⟩
  · exact .inr (.inl ⟨rfl, hi⟩)
  · rcases Nat.eq_zero_or_pos len.toNat with h0 | hpos
    · rw [h0] at hne
      exact absurd rfl hne
    · have hv : ((s.absorbDin len.toNat).endCommand (s.completesBlock len.toNat)).digestValid = false := by
        simp [digestValidAfterAbsorb_of_pos hpos]
      exact .inr (.inr ⟨hv, herr, len, hpos, hlen, hi⟩)
  · exact .inl ⟨rfl, herr, hi⟩
  · exact absurd hq.digestValid hne

/-- Settles O31: no executed command writes DIN, and what leaves the session alone writes it only as a host's write. -/
theorem onlyHostWritesChangeDin : Obligations.OnlyHostWritesChangeDin := by
  intro i s t h hne
  rcases exec_executes_or_leaves h with ⟨_, rfl⟩ | ⟨len, _, _, _, rfl⟩ | ⟨_, _, rfl⟩ | ⟨_, hdin⟩
  · exact absurd rfl hne
  · exact absurd (s.absorbDin_din len.toNat) hne
  · exact absurd rfl hne
  · exact hdin.resolve_left hne

/-- Settles O32: each command writes its own part of the session, and the rest leaves the session alone. -/
theorem onlyCommandsChangeTheSession : Obligations.OnlyCommandsChangeTheSession := by
  intro i s t hp h
  rcases exec_executes_or_leaves h with ⟨hi, rfl⟩ | ⟨len, hlen, herr, hi, rfl⟩ | ⟨herr, hi, rfl⟩ | ⟨hq, _⟩
  · exact ⟨fun _ => hi.imp_right .inl, fun _ => hi.imp_right .inl⟩
  · refine ⟨fun hne => .inr (.inr ⟨herr, len, ?_, hlen, hi⟩), fun hne => absurd (s.absorbDin_doutb len.toNat) hne⟩
    by_contra h0
    rw [show len.toNat = 0 by omega] at hne
    simp [State.absorbDin_zero] at hne
  · exact ⟨fun hne => by simp at hne, fun _ => .inr (.inr ⟨herr, hi⟩)⟩
  · obtain ⟨hS, _, hdoutb, _⟩ := hq.session hp
    exact ⟨fun hne => absurd hq.bufLen (hne.resolve_left (not_not_intro hS)), fun hne => absurd hdoutb hne⟩
end

section
/-! The invariant (R37, R38, R45). What its clauses say of the flags shows in the timeless view, and an instruction run from
an idle engine keeps it; what they say of the engine is kept because an access that finds it running leaves it alone. -/
namespace Sys2Proof.Machine

/-- The clauses of `State.Inv` about the flags: ERRCODE agrees with ERR (R38, R281) and DIGEST_VALID tells the truth (R37). -/
structure State.TruthfulFlags (s : State) : Prop where
  errCodeMatches : s.err = false ↔ s.errcode = 0
  errCodeKnown : s.errcode.toNat ≤ 3
  digestCurrent : s.digestValid = true → s.waitIdle.doutb = digestOf s.waitIdle.S s.waitIdle.pending

/-- The clauses of `State.Inv` about a running engine that the view does not show (R45, R338). -/
structure State.RunsKnown (s : State) : Prop where
  absorbEngine : s.phase = .permS → s.bufLen.val = s.pend.length ∧ s.pend.length ≤ 7
  busyKnown : s.phase ≠ .idle → s.mayBusy = true

theorem State.Inv.truthfulFlags {s : State} (h : s.Inv) : s.TruthfulFlags :=
  ⟨h.errCodeMatches, h.errCodeKnown, h.digestCurrent⟩

theorem State.Inv.runsKnown {s : State} (h : s.Inv) : s.RunsKnown := ⟨h.absorbEngine, h.busyKnown⟩

/-- The invariant is what the view shows of it, in the flags and in the settled engine, and what is known of a running one. -/
theorem State.Inv.of_parts {s : State} (hf : s.TruthfulFlags) (hs : s.Settles) (hr : s.RunsKnown) : s.Inv where
  errCodeMatches := hf.errCodeMatches
  errCodeKnown := hf.errCodeKnown
  idleEngine hp := (State.settles_iff_of_idle hp).1 hs
  digestEngine hp := by
    have hpend := hs.2
    unfold State.timelessView at hpend
    rw [s.waitIdle_of_permW hp] at hpend
    exact hpend
  absorbEngine := hr.absorbEngine
  busyKnown := hr.busyKnown
  digestCurrent := hf.digestCurrent

/-! The flags. -/

theorem State.truthfulFlags_timelessView (s : State) : s.timelessView.TruthfulFlags ↔ s.TruthfulFlags := by
  have hw := State.waitIdle_of_idle _ s.timelessView_phase
  constructor
  · rintro ⟨hm, hk, hd⟩
    rw [hw] at hd
    exact ⟨by simpa using hm, by simpa using hk, fun hv => hd (s.timelessView_digestValid.trans hv)⟩
  · rintro ⟨hm, hk, hd⟩
    refine ⟨by simpa using hm, by simpa using hk, fun hv => ?_⟩
    rw [hw]
    exact hd (s.timelessView_digestValid.symm.trans hv)

theorem State.TruthfulFlags.of_sameView {s t : State} (hf : s.TruthfulFlags) (h : t.timelessView = s.timelessView) :
    t.TruthfulFlags := by
  rw [← State.truthfulFlags_timelessView, h]
  exact s.truthfulFlags_timelessView.2 hf

/-- Every error has a code of R281, and none is 0. -/
theorem errorCodeBits_known (code : ErrorCode) : errorCodeBits code ≠ 0 ∧ (errorCodeBits code).toNat ≤ 3 := by
  cases code <;> decide

/-- With the engine idle, what leaves the session alone leaves the flags true. -/
theorem State.TruthfulFlags.of_leavesSession {s t : State} (hf : s.TruthfulFlags) (hp : s.phase = .idle)
    (hq : s.LeavesSession t) : t.TruthfulFlags := by
  obtain ⟨hS, hbuf, hdoutb, htp⟩ := hq.session hp
  have hdigest : t.digestValid = true → t.waitIdle.doutb = digestOf t.waitIdle.S t.waitIdle.pending := by
    have hd := hf.digestCurrent
    rw [s.waitIdle_of_idle hp] at hd
    rw [t.waitIdle_of_idle htp, State.pending, hq.digestValid, hq.bufLen, hS, hbuf, hdoutb]
    exact hd
  rcases hq.error with ⟨he, hc⟩ | ⟨_, he, code, hc⟩
  · exact ⟨by rw [he, hc]; exact hf.errCodeMatches, by rw [hc]; exact hf.errCodeKnown, hdigest⟩
  · obtain ⟨hne, hle⟩ := errorCodeBits_known code
    exact ⟨by simpa [he, hc] using hne, by rw [hc]; exact hle, hdigest⟩

/-- An executed ABSORB leaves the flags true: one of no bytes leaves the session, any other clears
DIGEST_VALID (R37). -/
theorem State.TruthfulFlags.absorbDin {s : State} (hf : s.TruthfulFlags) (n : Nat) : (s.absorbDin n).TruthfulFlags := by
  rcases Nat.eq_zero_or_pos n with rfl | hpos
  · exact hf
  · refine ⟨by simpa using hf.errCodeMatches, by simpa using hf.errCodeKnown, fun hv => ?_⟩
    rw [State.absorbDin_digestValid, digestValidAfterAbsorb_of_pos hpos] at hv
    cases hv

/-- With the engine idle, an executed DIGEST shows the digest that DIGEST_VALID promises (R192, R234). -/
theorem State.TruthfulFlags.computeDigest {s : State} (hf : s.TruthfulFlags) (hp : s.phase = .idle) :
    s.computeDigest.TruthfulFlags :=
  ⟨hf.errCodeMatches, hf.errCodeKnown, fun _ => by rw [State.waitIdle_of_idle s.computeDigest hp]; rfl⟩

theorem State.TruthfulFlags.endCommand {s : State} (hf : s.TruthfulFlags) (b : Bool) (hp : s.phase = .idle) :
    (s.endCommand b).TruthfulFlags :=
  hf.of_leavesSession hp (s.leavesSession_endCommand b)

/-- From an idle engine every instruction leaves the flags true. -/
theorem State.TruthfulFlags.exec_of_idle {i : Instr} {s t : State} (hf : s.TruthfulFlags) (hp : s.phase = .idle)
    (h : exec i s = .next t) : t.TruthfulFlags := by
  rcases exec_executes_or_leaves h with ⟨_, rfl⟩ | ⟨len, _, _, _, rfl⟩ | ⟨_, _, rfl⟩ | ⟨hq, _⟩
  · exact ⟨⟨fun _ => rfl, fun _ => rfl⟩, Nat.zero_le 3, nofun⟩
  · exact (hf.absorbDin len.toNat).endCommand _ (by simpa using hp)
  · exact (hf.computeDigest hp).endCommand _ hp
  · exact hf.of_leavesSession hp hq

/-- Every instruction that starts at once leaves the flags true: what it does shows in the view, whose engine is idle. -/
theorem State.TruthfulFlags.exec {i : Instr} {s t : State} (hf : s.TruthfulFlags) (hi : s.StartsAtOnce i)
    (h : exec i s = .next t) : t.TruthfulFlags := by
  obtain ⟨u, hu⟩ := exec_next i s.timelessView
  have hview := s.truthfulFlags_timelessView.2 hf
  exact (hview.exec_of_idle s.timelessView_phase hu).of_sameView (exec_timelessView hi h hu)

/-! The running engine. -/

theorem State.RunsKnown.of_idle {s : State} (hp : s.phase = .idle) : s.RunsKnown :=
  ⟨fun h => (nomatch hp.symm.trans h), fun h => absurd hp h⟩

/-- The engine of `t` is idle, or it runs what it ran in `s`. -/
def State.IdleOrAsBefore (s t : State) : Prop :=
  t.phase = .idle ∨ (t.phase = s.phase ∧ t.pend = s.pend ∧ t.bufLen = s.bufLen ∧ t.mayBusy = s.mayBusy)

theorem State.RunsKnown.of_idleOrAsBefore {s t : State} (hr : s.RunsKnown) (h : s.IdleOrAsBefore t) : t.RunsKnown := by
  rcases h with hp | ⟨hp, hd, hl, hm⟩
  · exact .of_idle hp
  · exact ⟨by rw [hp, hd, hl]; exact hr.absorbEngine, by rw [hp, hm]; exact hr.busyKnown⟩

/-- From an idle engine every instruction ends with an idle engine. -/
theorem exec_idle_of_idle {i : Instr} {s t : State} (hp : s.phase = .idle) (h : exec i s = .next t) :
    t.phase = .idle := by
  rcases exec_executes_or_leaves h with ⟨_, rfl⟩ | ⟨len, _, _, _, rfl⟩ | ⟨_, _, rfl⟩ | ⟨hq, _⟩
  · exact hp
  · simpa using hp
  · exact hp
  · obtain ⟨_, _, _, htp⟩ := hq.session hp
    exact htp

/-- A STATUS read finds the engine idle, or leaves it as it is. -/
theorem State.idleOrAsBefore_readStatus (d : Bool) (s : State) : s.IdleOrAsBefore (s.readStatus d) := by
  unfold State.readStatus
  split
  · split
    · exact .inr ⟨rfl, rfl, rfl, rfl⟩
    · exact .inl s.waitIdle_phase
  · exact .inr ⟨rfl, rfl, rfl, rfl⟩

/-- No access starts anything in the engine of the atomic machine (R330). -/
theorem exec_idleOrAsBefore {i : Instr} {s t : State} (hi : s.StartsAtOnce i) (h : exec i s = .next t) :
    s.IdleOrAsBefore t := by
  rcases hi with hp | hw
  · exact .inl (exec_idle_of_idle hp h)
  · cases i
    case rdStatus => obtain rfl := Host.Outcome.next.inj h; exact s.idleOrAsBefore_readStatus _
    case rdId | rdParam | rdDinLo | rdDinHi | wrDinLo | wrDinHi =>
      obtain rfl := Host.Outcome.next.inj h
      exact .inr ⟨rfl, rfl, rfl, rfl⟩
    all_goals cases hw

/-! One step. -/

/-- What a step does: it takes an input that reaches no register, it resets, it answers a BusError, or it executes the
instruction presented, after its wait. -/
theorem step_cases {s t : State} (h : step s = .next t) :
    (∃ rest, t = { s with host := rest }) ∨
    (∃ rest, t = ({ s with host := rest } : State).resetEdge) ∨
    (∃ rest x, t = ({ s with host := rest } : State).takeBusError x) ∨
    (∃ rest x i, s.host = .present x :: rest ∧ decodeTransaction x = .instr i ∧
      exec i (({ s with host := rest } : State).waitFor i) = .next t) := by
  cases hl : s.host with
  | nil => rw [step_nil hl] at h; exact .inl ⟨s.host, (Host.Outcome.next.inj h).symm⟩
  | cons input rest =>
    cases input with
    | idle => rw [step_idle hl] at h; exact .inl ⟨rest, (Host.Outcome.next.inj h).symm⟩
    | rst held => rw [step_rst hl] at h; exact .inr (.inl ⟨rest, (Host.Outcome.next.inj h).symm⟩)
    | present x =>
      rw [step_present hl, State.acceptTransaction] at h
      cases hx : decodeTransaction x with
      | rejected r =>
        rw [hx] at h
        exact .inr (.inr (.inl ⟨rest, x, (Host.Outcome.next.inj h).symm⟩))
      | instr i =>
        rw [hx] at h
        exact .inr (.inr (.inr ⟨rest, x, i, rfl, hx, h⟩))

/-- What shows in the view as leaving the session leaves the flags true. -/
theorem State.TruthfulFlags.of_view {s t : State} (hf : s.TruthfulFlags)
    (hq : s.timelessView.LeavesSession t.timelessView) : t.TruthfulFlags :=
  t.truthfulFlags_timelessView.1 ((s.truthfulFlags_timelessView.2 hf).of_leavesSession s.timelessView_phase hq)

theorem State.TruthfulFlags.withHost {s : State} (hf : s.TruthfulFlags) (rest : List HostInput) :
    ({ s with host := rest } : State).TruthfulFlags := by
  refine hf.of_view ?_
  rw [State.timelessView_withHost rest s]
  exact ⟨rfl, rfl, .inl ⟨rfl, rfl⟩, fun h => ⟨rfl, rfl, rfl, h⟩⟩

theorem State.TruthfulFlags.respond {s : State} (hf : s.TruthfulFlags) (r : Response) : (s.respond r).TruthfulFlags := by
  refine hf.of_view ?_
  rw [State.timelessView_respond]
  exact State.leavesSession_respond _ _

theorem State.truthfulFlags_resetEdge (s : State) : s.resetEdge.TruthfulFlags :=
  ⟨⟨fun _ => rfl, fun _ => rfl⟩, Nat.zero_le 3, nofun⟩

theorem State.TruthfulFlags.waitFor {s : State} (hf : s.TruthfulFlags) (i : Instr) : (s.waitFor i).TruthfulFlags :=
  hf.of_sameView (s.timelessView_waitFor i)

theorem State.TruthfulFlags.step {s t : State} (hf : s.TruthfulFlags) (h : step s = .next t) : t.TruthfulFlags := by
  rcases step_cases h with ⟨rest, rfl⟩ | ⟨rest, rfl⟩ | ⟨rest, x, rfl⟩ | ⟨rest, x, i, _, _, hx⟩
  · exact hf.withHost rest
  · exact State.truthfulFlags_resetEdge _
  · exact (hf.withHost rest).respond _
  · exact ((hf.withHost rest).waitFor i).exec (State.startsAtOnce_waitFor i _) hx

/-- After the wait an instruction needs, the engine is idle or runs what it ran. -/
theorem State.RunsKnown.waitFor {s : State} (hr : s.RunsKnown) (i : Instr) : (s.waitFor i).RunsKnown := by
  unfold State.waitFor
  split
  · exact .of_idle s.waitIdle_phase
  · exact hr

theorem State.RunsKnown.withHost {s : State} (hr : s.RunsKnown) (rest : List HostInput) :
    ({ s with host := rest } : State).RunsKnown := ⟨hr.absorbEngine, hr.busyKnown⟩

theorem State.RunsKnown.respond {s : State} (hr : s.RunsKnown) (r : Response) : (s.respond r).RunsKnown :=
  ⟨hr.absorbEngine, hr.busyKnown⟩

theorem State.RunsKnown.step {s t : State} (hr : s.RunsKnown) (h : step s = .next t) : t.RunsKnown := by
  rcases step_cases h with ⟨rest, rfl⟩ | ⟨rest, rfl⟩ | ⟨rest, x, rfl⟩ | ⟨rest, x, i, _, _, hx⟩
  · exact hr.withHost rest
  · exact .of_idle rfl
  · exact (hr.withHost rest).respond _
  · exact ((hr.withHost rest).waitFor i).of_idleOrAsBefore (exec_idleOrAsBefore (State.startsAtOnce_waitFor i _) hx)

end Sys2Proof.Machine

open Sys2Proof Sys2Proof.Machine

/-- Settles O49: a step keeps the flags true, the engine settled, and what is known of a running one. -/
theorem stepKeepsTheInvariant : Obligations.StepKeepsTheInvariant := by
  intro s t hinv h
  exact .of_parts (hinv.truthfulFlags.step h) ((State.Settles.of_inv hinv).step h) (hinv.runsKnown.step h)
end

section
/-! The invariant over clock edges (R331). The view of an edge is that of a step of the atomic machine or is unchanged, so what
the view shows of the invariant is kept; the engine's part is followed edge by edge. -/
namespace Sys2Proof.Machine

/-- An edge of the engine goes on with what runs, or ends it. -/
theorem State.idleOrAsBefore_engineEdge (n : Nat) (s : State) : s.IdleOrAsBefore (s.engineEdge n) := by
  unfold State.engineEdge
  split
  · split <;> exact .inr ⟨rfl, rfl, rfl, rfl⟩
  · exact .inl s.waitIdle_phase

theorem State.RunsKnown.engineEdge {s : State} (hr : s.RunsKnown) (n : Nat) : (s.engineEdge n).RunsKnown :=
  hr.of_idleOrAsBefore (s.idleOrAsBefore_engineEdge n)

/-- An ABSORB that is started leaves at most seven bytes to be placed, and BUF_LEN counts them (R45, R331). -/
theorem State.startAbsorb_pend (n : Nat) (s : State) (hn : n ≤ 8) :
    (s.startAbsorb n).bufLen.val = (s.startAbsorb n).pend.length ∧ (s.startAbsorb n).pend.length ≤ 7 := by
  have hpend : (s.startAbsorb n).pend = (dinBytes n s.din).drop (135 - s.bufLen.val + 1) := rfl
  have hlen : (s.startAbsorb n).bufLen.val = (s.startAbsorb n).pend.length % 136 := rfl
  have hle : (s.startAbsorb n).pend.length ≤ 7 := by
    rw [hpend, List.length_drop, dinBytes_length n hn]; omega
  exact ⟨by rw [hlen]; omega, hle⟩

/-- At an acceptance edge a permutation is started, with MAYBUSY set, or the engine is left idle or running as it was. -/
theorem State.RunsKnown.acceptEdge {i : Instr} {s t : State} (hr : s.RunsKnown) (hi : s.StartsAtOnce i)
    (h : acceptEdge i s = .next t) : t.RunsKnown := by
  rcases acceptEdge_cases i s t h with ⟨hx, _⟩ | ⟨_, rfl⟩ | ⟨len, hlen, _, _, rfl, _⟩ | ⟨_, rfl, _⟩
  · exact hr.of_idleOrAsBefore (exec_idleOrAsBefore hi hx)
  · refine ⟨hr.absorbEngine, fun hp => ?_⟩
    have hbusy : s.busy = true := by simpa using mt s.busy_eq_false_iff.1 hp
    simp [State.readStatusClocked, hr.busyKnown hp, hbusy]
  · exact ⟨fun _ => s.startAbsorb_pend len.toNat hlen, fun _ => rfl⟩
  · exact ⟨nofun, fun _ => rfl⟩

theorem State.RunsKnown.acceptTransactionEdge {x : Transaction} {s t : State} (hr : s.RunsKnown)
    (hready : s.ready x = true) (h : s.acceptTransactionEdge x = .next t) : t.RunsKnown := by
  unfold State.acceptTransactionEdge at h
  cases hx : decodeTransaction x with
  | instr i =>
    rw [hx] at h
    exact hr.acceptEdge (State.startsAtOnce_of_ready hx hready) h
  | rejected r =>
    rw [hx] at h
    obtain rfl := Host.Outcome.next.inj h
    exact hr.respond _

/-- The engine's rounds at the edge of an acceptance. -/
theorem runsKnown_engineAfter {n : Nat} {running : Bool} {o : Host.Outcome State Fault Refusal} {t : State}
    (ho : ∀ a, o = .next a → a.RunsKnown) (h : engineAfter n running o = .next t) : t.RunsKnown := by
  cases o with
  | next a =>
    obtain rfl := Host.Outcome.next.inj h
    have ha := ho a rfl
    split
    · exact ha.engineEdge n
    · exact ha
  | fault r => cases h
  | refused r => cases h

theorem State.RunsKnown.clockEdge {rpc : Config.RoundsPerCycle} {s t : State} (hr : s.RunsKnown)
    (h : clockEdge rpc s = .next t) : t.RunsKnown := by
  cases hl : s.host with
  | nil =>
    rw [clockEdge_nil rpc hl] at h
    obtain rfl := Host.Outcome.next.inj h
    exact hr.engineEdge _
  | cons input rest =>
    cases input with
    | idle =>
      rw [clockEdge_idle rpc hl] at h
      obtain rfl := Host.Outcome.next.inj h
      exact (hr.withHost rest).engineEdge _
    | rst held =>
      rw [clockEdge_rst rpc hl] at h
      obtain rfl := Host.Outcome.next.inj h
      exact .of_idle rfl
    | present x =>
      cases hready : s.ready x with
      | false =>
        rw [clockEdge_held rpc hl hready] at h
        obtain rfl := Host.Outcome.next.inj h
        exact hr.engineEdge _
      | true =>
        rw [clockEdge_accepted rpc hl hready] at h
        exact runsKnown_engineAfter (fun a ha => (hr.withHost rest).acceptTransactionEdge hready ha) h

end Sys2Proof.Machine

open Sys2Proof Sys2Proof.Machine

/-- Settles O50: the flags and the settled engine show in the view, in which an edge is a step or nothing. -/
theorem clockEdgeKeepsTheInvariant : Obligations.ClockEdgeKeepsTheInvariant := by
  intro rpc s t hinv h
  have hs := State.Settles.of_inv hinv
  have hr := hinv.runsKnown.clockEdge h
  rcases clockEdge_refines_step hs h with ⟨hview, _⟩ | ⟨u, hu, hview⟩
  · exact .of_parts (hinv.truthfulFlags.of_sameView hview) (hs.of_sameView hview) hr
  · exact .of_parts ((hinv.truthfulFlags.step hu).of_sameView hview) ((hs.step hu).of_sameView hview) hr
end

section
/-! What is visible of two states that differ in S, BUF and W (R46): each update the block makes to both keeps them alike, but
for an executed DIGEST. -/
namespace Sys2Proof.Machine

section
variable {s t : State} (h : SameVisible s t)
include h

theorem SameVisible.respond (r : Response) : SameVisible (s.respond r) (t.respond r) :=
  { h with responses := congrArg (r :: ·) h.responses }

theorem SameVisible.endCommand (b : Bool) : SameVisible (s.endCommand b) (t.endCommand b) :=
  { h with mayBusy := rfl, responses := congrArg (Response.write 0x08 false :: ·) h.responses }

theorem SameVisible.withHost (rest : List HostInput) :
    SameVisible { s with host := rest } { t with host := rest } :=
  { h with host := rfl }

theorem SameVisible.rejectCommand (code : ErrorCode) : SameVisible (s.rejectCommand code) (t.rejectCommand code) := by
  unfold State.rejectCommand
  rw [← h.err]
  split
  · exact h.endCommand false
  · have hraised : SameVisible (s.raiseCmdError code) (t.raiseCmdError code) := { h with err := rfl, errcode := rfl }
    exact hraised.endCommand false

theorem SameVisible.startSession : SameVisible s.startSession t.startSession :=
  { h with bufLen := rfl, doutb := rfl, digestValid := rfl, err := rfl, errcode := rfl }

theorem SameVisible.completesBlock (n : Nat) : s.completesBlock n = t.completesBlock n := by
  unfold State.completesBlock; rw [h.bufLen]

/-- How far ABSORB moves BUF_LEN does not depend on what is in BUF (R233). -/
theorem SameVisible.absorbDin (n : Nat) : SameVisible (s.absorbDin n) (t.absorbDin n) := by
  have hlen : (absorbBytes (dinBytes n s.din) s).bufLen = (absorbBytes (dinBytes n t.din) t).bufLen := by
    apply Fin.ext
    rw [absorbBytes_bufLen, absorbBytes_bufLen, h.bufLen, h.din]
  rw [State.absorbDin_frame, State.absorbDin_frame]
  exact { h with bufLen := hlen, digestValid := congrArg (digestValidAfterAbsorb n) h.digestValid }

theorem SameVisible.setDinLo (v : Word) : SameVisible (s.setDinLo v) (t.setDinLo v) :=
  { h with din := congrArg (fun d => dinOf (dinHi d) v) h.din }

theorem SameVisible.setDinHi (v : Word) : SameVisible (s.setDinHi v) (t.setDinHi v) :=
  { h with din := congrArg (fun d => dinOf v (dinLo d)) h.din }

theorem SameVisible.readDout (j : Fin 8) : SameVisible (s.readDout j) (t.readDout j) := by
  have hw : SameVisible (s.readDout j)
      (({ t with mayBusy := false } : State).respond
        (.read (BitVec.ofNat 6 (0x20 + 4 * j.val)) (doutWord j s.doutb) false)) :=
    { h with mayBusy := rfl, responses := congrArg (_ :: ·) h.responses }
  rw [h.doutb] at hw
  exact hw

/-- The STATUS word shows fields that are alike. -/
theorem SameVisible.statusWord (b : Bool) : statusWord b s = statusWord b t := by
  simp only [Machine.statusWord, h.bufLen, h.errcode, h.err, h.digestValid]

theorem SameVisible.readStatus (d : Bool) : SameVisible (s.readStatus d) (t.readStatus d) := by
  rw [s.readStatus_of_idle d h.idleLeft, t.readStatus_of_idle d h.idleRight, ← h.mayBusy, ← h.draws, ← h.statusWord]
  exact { h with mayBusy := rfl, draws := rfl, responses := congrArg (_ :: ·) h.responses }

theorem SameVisible.waitFor (i : Instr) : SameVisible (s.waitFor i) (t.waitFor i) := by
  rw [State.StartsAtOnce.waitFor_eq (.inl h.idleLeft), State.StartsAtOnce.waitFor_eq (.inl h.idleRight)]
  exact h

theorem SameVisible.resetEdge : SameVisible s.resetEdge t.resetEdge :=
  { h with
    din := rfl, doutb := rfl, bufLen := rfl, digestValid := rfl, err := rfl, errcode := rfl, mayBusy := rfl
    idleLeft := rfl, idleRight := rfl }

end

/-- A command that is not an executed DIGEST keeps two states alike. -/
theorem SameVisible.exec_command {s t s' t' : State} (h : SameVisible s t) (cmd : Command)
    (hd : s.err = false → cmd ≠ .digest) (hs : exec cmd.toInstr s = .next s') (ht : exec cmd.toInstr t = .next t') :
    SameVisible s' t' := by
  cases cmd with
  | nop =>
    obtain rfl := Host.Outcome.next.inj hs
    obtain rfl := Host.Outcome.next.inj ht
    exact h.endCommand false
  | init =>
    obtain rfl := Host.Outcome.next.inj hs
    obtain rfl := Host.Outcome.next.inj ht
    exact h.startSession.endCommand false
  | absorb len =>
    obtain rfl := Host.Outcome.next.inj hs
    obtain rfl := Host.Outcome.next.inj ht
    rw [← h.err, ← h.completesBlock]
    split_ifs
    · exact h.rejectCommand .badLen
    · exact h.endCommand false
    · exact (h.absorbDin len.toNat).endCommand _
  | digest =>
    have herr : s.err = true := by simpa using mt hd (not_not_intro rfl)
    obtain rfl := Host.Outcome.next.inj hs
    obtain rfl := Host.Outcome.next.inj ht
    rw [if_pos herr, if_pos (h.err ▸ herr)]
    exact h.endCommand false

/-- The command words: only 3 is DIGEST. -/
theorem decodeCommand_eq_digest {c : Word} (h : decodeCommand c = .command .digest) : c = 0x00000003 := by
  rcases (decodeCommand_command_iff c .digest).1 h with ⟨_, h⟩ | ⟨_, h⟩ | ⟨rfl, _⟩ | ⟨_, _, _, h⟩
  · cases h
  · cases h
  · rfl
  · cases h

/-- An instruction that executes no DIGEST keeps two states alike. -/
theorem SameVisible.exec {i : Instr} {s t s' t' : State} (h : SameVisible s t)
    (hd : s.err = false → i ≠ .digest ∧ i ≠ .wrCmd 0x00000003) (hs : exec i s = .next s') (ht : exec i t = .next t') :
    SameVisible s' t' := by
  cases i
  case nop => exact h.exec_command .nop nofun hs ht
  case init => exact h.exec_command .init nofun hs ht
  case absorb len => exact h.exec_command (.absorb len) nofun hs ht
  case digest => exact h.exec_command .digest (fun he => absurd rfl (hd he).1) hs ht
  case wrCmd c =>
    cases hc : decodeCommand c with
    | command cmd =>
      rw [exec_wrCmd_command c cmd _ hc] at hs ht
      refine h.exec_command cmd (fun he hdig => (hd he).2 ?_) hs ht
      subst hdig
      rw [decodeCommand_eq_digest hc]
    | error code =>
      simp only [Machine.exec, execWrCmd, hc, Host.Outcome.next.injEq] at hs ht
      subst hs ht
      exact h.rejectCommand code
  all_goals
    obtain rfl := Host.Outcome.next.inj hs
    obtain rfl := Host.Outcome.next.inj ht
  case rdId | rdParam => exact h.respond _
  case rdStatus => rw [← h.draws]; exact h.readStatus _
  case rdDinLo | rdDinHi => rw [← h.din]; exact h.respond _
  case rdDout0 | rdDout1 | rdDout2 | rdDout3 | rdDout4 | rdDout5 | rdDout6 | rdDout7 => exact h.readDout _
  case wrDinLo v => exact (h.setDinLo v).respond _
  case wrDinHi v => exact (h.setDinHi v).respond _

/-- The access key 0x48 is a write to CMD (R106). -/
theorem we_addr_of_key_cmd {x : Transaction} (h : x.key = 0x48#7) : x.we = true ∧ x.addr = 0x08 := by
  have hkey := key_toNat x
  have haddr := x.addr.isLt
  have hk : x.key.toNat = 0x48 := by rw [h]; rfl
  rw [hk] at hkey
  split at hkey
  · exact ⟨‹_›, BitVec.eq_of_toNat_eq (by simp; omega)⟩
  · omega

theorem decodeKey_eq_wrCmd {k : BitVec 7} {w c : Word} (h : decodeKey k w = some (.wrCmd c)) : k = 0x48#7 ∧ c = w := by
  unfold decodeKey at h
  split at h <;> simp_all

theorem decodeKey_ne_digest (k : BitVec 7) (w : Word) : decodeKey k w ≠ some .digest := by
  unfold decodeKey
  split <;> simp

/-- A CMD write is a transaction with we = 1, offset 0x08 and the word as its wdata (R34). -/
theorem eq_of_decodeTransaction_wrCmd {x : Transaction} {c : Word} (h : decodeTransaction x = .instr (.wrCmd c)) :
    x = { we := true, addr := 0x08, wdata := c } := by
  obtain ⟨hkey, rfl⟩ := decodeKey_eq_wrCmd ((decodeTransaction_instr_iff x _).1 h)
  obtain ⟨hwe, haddr⟩ := we_addr_of_key_cmd hkey
  rw [← hwe, ← haddr]

/-- No transaction is the bare term DIGEST: the command comes as a CMD write of its word (R34). -/
theorem decodeTransaction_ne_digest (x : Transaction) : decodeTransaction x ≠ .instr .digest := by
  rw [ne_eq, decodeTransaction_instr_iff]
  exact decodeKey_ne_digest _ _

/-- Two states that are alike step to states that are, unless the step executes a DIGEST. -/
theorem SameVisible.step {s t s' t' : State} (h : SameVisible s t)
    (hd : ¬(s.err = false ∧ ∃ rest, s.host = .present { we := true, addr := 0x08, wdata := 0x00000003 } :: rest))
    (hs : step s = .next s') (ht : step t = .next t') : SameVisible s' t' := by
  cases hl : s.host with
  | nil =>
    rw [step_nil hl] at hs
    rw [step_nil (h.host ▸ hl)] at ht
    obtain rfl := Host.Outcome.next.inj hs
    obtain rfl := Host.Outcome.next.inj ht
    exact h
  | cons input rest =>
    have hrest := h.withHost rest
    cases input with
    | idle =>
      rw [step_idle hl] at hs
      rw [step_idle (h.host ▸ hl)] at ht
      obtain rfl := Host.Outcome.next.inj hs
      obtain rfl := Host.Outcome.next.inj ht
      exact hrest
    | rst held =>
      rw [step_rst hl] at hs
      rw [step_rst (h.host ▸ hl)] at ht
      obtain rfl := Host.Outcome.next.inj hs
      obtain rfl := Host.Outcome.next.inj ht
      exact hrest.resetEdge
    | present x =>
      rw [step_present hl, State.acceptTransaction] at hs
      rw [step_present (h.host ▸ hl), State.acceptTransaction] at ht
      cases hx : decodeTransaction x with
      | rejected r =>
        rw [hx] at hs ht
        obtain rfl := Host.Outcome.next.inj hs
        obtain rfl := Host.Outcome.next.inj ht
        exact hrest.respond _
      | instr i =>
        rw [hx] at hs ht
        have hidle : State.StartsAtOnce i { s with host := rest } := .inl hrest.idleLeft
        refine (hrest.waitFor i).exec (fun he => ⟨?_, ?_⟩) hs ht
        · rintro rfl
          exact decodeTransaction_ne_digest x hx
        · rintro rfl
          rw [hidle.waitFor_eq] at he
          exact hd ⟨he, rest, by rw [hl, eq_of_decodeTransaction_wrCmd hx]⟩

end Sys2Proof.Machine

open Sys2Proof Sys2Proof.Machine

/-- Settles O51: a step that executes no DIGEST makes to both states updates that keep them alike. -/
theorem onlyDigestShowsTheState : Obligations.OnlyDigestShowsTheState :=
  fun _ _ _ _ h hd hs ht => h.step hd hs ht
end

section
/-! Which accesses wait (R72, R332 to R334), and that a read or a write of DIN can be repeated (R75). -/
namespace Sys2Proof.Machine

/-- A transaction is held exactly while the engine runs and its instruction waits for it (R72). -/
theorem State.ready_eq_false_iff (x : Transaction) (s : State) : s.ready x = false ↔
    s.busy = true ∧ ∃ i, decodeTransaction x = .instr i ∧ waitsForIdle i = true := by
  unfold State.ready
  cases decodeTransaction x with
  | instr i => simp
  | rejected r => simp

/-- The access keys of the instructions that wait: CMD writes, and aligned reads from offset 0x20 on (R106). -/
theorem key_of_waitsForIdle {k : BitVec 7} {w : Word} {i : Instr} (h : decodeKey k w = some i)
    (hi : waitsForIdle i = true) : k.toNat = 0x48 ∨ (0x20 ≤ k.toNat ∧ k.toNat < 0x40 ∧ k.toNat % 4 = 0) := by
  unfold decodeKey at h
  split at h <;> cases h
  all_goals simp [waitsForIdle] at hi ⊢

/-- The accesses that wait are the CMD writes (R332) and the DOUT reads (R333). -/
theorem waitsForIdle_iff_cmdWrite_or_doutRead (x : Transaction) :
    (∃ i, decodeTransaction x = .instr i ∧ waitsForIdle i = true) ↔
      (x.we = true ∧ x.addr.toNat = 0x08) ∨ (x.we = false ∧ 0x20 ≤ x.addr.toNat ∧ x.addr.toNat % 4 = 0) := by
  have haddr := x.addr.isLt
  constructor
  · rintro ⟨i, hx, hi⟩
    have hkey := key_of_waitsForIdle ((decodeTransaction_instr_iff x i).1 hx) hi
    rw [key_toNat] at hkey
    cases hwe : x.we with
    | true =>
      rw [hwe, if_pos rfl] at hkey
      exact .inl ⟨rfl, by omega⟩
    | false =>
      rw [hwe, if_neg Bool.false_ne_true] at hkey
      exact .inr ⟨rfl, by omega⟩
  · obtain ⟨we, addr, w⟩ := x
    rintro (⟨rfl, ha⟩ | ⟨rfl, hlo, hal⟩)
    · obtain rfl : addr = 0x08 := BitVec.eq_of_toNat_eq ha
      exact ⟨_, decodeTransaction_wrCmd w, rfl⟩
    · obtain ⟨j, hj⟩ : ∃ j : Fin 8, 0x20 + 4 * j.val = addr.toNat :=
        ⟨⟨(addr.toNat - 0x20) / 4, by omega⟩, by simp only at hlo hal ⊢; omega⟩
      obtain rfl : addr = BitVec.ofNat 6 (0x20 + 4 * j.val) := by rw [hj, BitVec.ofNat_toNat, BitVec.setWidth_eq]
      exact ⟨_, decodeTransaction_doutRead j w, waitsForIdle_doutRead j⟩

/-- The reads of the registers (R238 to R243). -/
def registerReads : List Instr :=
  [.rdId, .rdParam, .rdStatus, .rdDinLo, .rdDinHi, .rdDout0, .rdDout1, .rdDout2, .rdDout3, .rdDout4, .rdDout5, .rdDout6,
    .rdDout7]

/-- A read of any register but STATUS writes no more than MAYBUSY, and read again it gives the same answer (R75). -/
theorem exec_read_repeats {i : Instr} {s t : State} (hi : i ∈ registerReads) (hne : i ≠ .rdStatus)
    (h : exec i s = .next t) :
    ∃ m r, t = { s with mayBusy := m, responses := r :: s.responses } ∧ exec i t = .next (t.respond r) := by
  cases i
  case rdStatus => exact absurd rfl hne
  case nop | init | absorb | digest | wrCmd | wrDinLo | wrDinHi => simp [registerReads] at hi
  all_goals
    obtain rfl := Host.Outcome.next.inj h
    exact ⟨_, _, rfl, rfl⟩

/-! A second write of half of DIN replaces the first, and an answer comes between them without effect. -/
@[simp] theorem State.setDinLo_setDinLo (v w : Word) (s : State) : (s.setDinLo v).setDinLo w = s.setDinLo w := by
  simp only [State.setDinLo, dinOf_hi]
@[simp] theorem State.setDinHi_setDinHi (v w : Word) (s : State) : (s.setDinHi v).setDinHi w = s.setDinHi w := by
  simp only [State.setDinHi, dinOf_lo]
@[simp] theorem State.setDinLo_respond (v : Word) (r : Response) (s : State) :
    (s.respond r).setDinLo v = (s.setDinLo v).respond r := rfl
@[simp] theorem State.setDinHi_respond (v : Word) (r : Response) (s : State) :
    (s.respond r).setDinHi v = (s.setDinHi v).respond r := rfl

end Sys2Proof.Machine

open Sys2Proof Sys2Proof.Machine

/-- Settles O14: the instructions that wait are those of CMD writes and DOUT reads, and the port ready adds rst to that. -/
theorem onlyCommandWritesAndDoutReadsWait : Obligations.OnlyCommandWritesAndDoutReadsWait := by
  have hready : ∀ (s : State) (x : Transaction), s.ready x = false ↔ _ := fun s x =>
    (s.ready_eq_false_iff x).trans (and_congr_right fun _ => waitsForIdle_iff_cmdWrite_or_doutRead x)
  refine ⟨hready, fun s input => ?_, fun s input x => ?_⟩
  · cases input with
    | idle => simp
    | rst held => simp
    | present x => simpa using hready s x
  · rw [State.accepted_eq]
    cases input with
    | idle => simp
    | rst held => simp
    | present y => simp +contextual [and_comm]

/-- Settles O19: a STATUS read of an idle block writes what stands for BUSY, and every other read can be repeated; the half of
DIN that a write gives replaces itself. -/
theorem readsHaveNoSideEffect : Obligations.ReadsHaveNoSideEffect := by
  refine ⟨fun i s t hi hp h => ?_, fun v s t u => ⟨fun ht hu => ?_, fun ht hu => ?_⟩⟩
  · by_cases hst : i = .rdStatus
    · subst hst
      obtain rfl := Host.Outcome.next.inj h
      rw [s.readStatus_of_idle _ hp]
      exact ⟨rfl, _, rfl, fun _ hne => absurd rfl hne⟩
    · obtain ⟨m, r, rfl, hagain⟩ := exec_read_repeats hi hst h
      refine ⟨rfl, r, rfl, fun u _ hu => ?_⟩
      obtain rfl := Host.Outcome.next.inj (hagain.symm.trans hu)
      rfl
  · obtain rfl := Host.Outcome.next.inj ht
    obtain rfl := Host.Outcome.next.inj hu
    simp only [State.answerWrite_eq, State.setDinLo_respond, State.setDinLo_setDinLo]
    rfl
  · obtain rfl := Host.Outcome.next.inj ht
    obtain rfl := Host.Outcome.next.inj hu
    simp only [State.answerWrite_eq, State.setDinHi_respond, State.setDinHi_setDinHi]
    rfl
end

section
/-! Encoding and decoding (30_encoding.md): a command word is read back from its fields, and every other instruction by the access
key of the transaction that is its encoding. -/
namespace Sys2Proof

/-- The word of ABSORB as a number: LEN in bits 7..4, OP = 2 (R100, R101). -/
theorem encodeCommand_absorb (len : BitVec 4) :
    encodeCommand (.absorb len) = BitVec.ofNat 32 (len.toNat * 16 + 2) := by
  apply BitVec.eq_of_toNat_eq
  rw [encodeCommand, encodeCommandFields, BitVec.toNat_setWidth, Machine.toNat_append_eq, BitVec.toNat_ofNat]
  rfl

/-- The encoding of a command is its word. -/
theorem encode_toInstr (cmd : Command) : encode cmd.toInstr = .cmd (encodeCommand cmd) := by cases cmd <;> rfl

/-- Only commands are encoded as words in format CMD (R101). -/
theorem eq_toInstr_of_encode_eq_cmd {i : Instr} {c : Word} (h : encode i = .cmd c) :
    ∃ cmd : Command, i = cmd.toInstr ∧ encodeCommand cmd = c := by
  cases i
  case nop => exact ⟨.nop, rfl, Encoding.cmd.inj h⟩
  case init => exact ⟨.init, rfl, Encoding.cmd.inj h⟩
  case absorb len => exact ⟨.absorb len, rfl, Encoding.cmd.inj h⟩
  case digest => exact ⟨.digest, rfl, Encoding.cmd.inj h⟩
  all_goals cases h

/-- A command word is the encoding of a well-formed command, and stands for it (R102, R104, R105). -/
theorem decodeCommand_eq_command_iff (c : Word) (cmd : Command) :
    decodeCommand c = .command cmd ↔ cmd.toInstr.wf = true ∧ c = encodeCommand cmd := by
  rw [decodeCommand_command_iff]
  cases cmd with
  | nop => simp [Command.toInstr, Instr.wf, encodeCommand, encodeCommandFields]
  | init => simp [Command.toInstr, Instr.wf, encodeCommand, encodeCommandFields]
  | absorb len => simp [Command.toInstr, Instr.wf, encodeCommand_absorb]
  | digest => simp [Command.toInstr, Instr.wf, encodeCommand, encodeCommandFields]

/-- The family CarriedByLegalKey, for every instruction at once. -/
theorem Laws.CarriedByLegalKey.all (i : Instr) : Statement i :=
  match i with
  | .nop => nop
  | .init => init
  | .absorb len => absorb len
  | .digest => digest
  | .rdId => rdId
  | .rdParam => rdParam
  | .rdStatus => rdStatus
  | .rdDinLo => rdDinLo
  | .rdDinHi => rdDinHi
  | .rdDout0 => rdDout0
  | .rdDout1 => rdDout1
  | .rdDout2 => rdDout2
  | .rdDout3 => rdDout3
  | .rdDout4 => rdDout4
  | .rdDout5 => rdDout5
  | .rdDout6 => rdDout6
  | .rdDout7 => rdDout7
  | .wrCmd c => wrCmd c
  | .wrDinLo v => wrDinLo v
  | .wrDinHi v => wrDinHi v

/-- Which instruction an access key gives, read backward: the key and wdata of the encoding, a read's wdata being 0 (R106,
assumption 11). -/
theorem encode_of_decodeKey {k : BitVec 7} {w : Word} {i : Instr} (h : decodeKey k w = some i) :
    i.wf = true ∧ encode i = .bus { we := k.msb, addr := k.setWidth 6, wdata := if k.msb then w else 0 } := by
  unfold decodeKey at h
  split at h <;> cases h <;> exact ⟨rfl, rfl⟩

theorem Transaction.key_msb (x : Transaction) : x.key.msb = x.we := by
  rw [Transaction.key, BitVec.msb_append]; simp

theorem Transaction.key_setWidth (x : Transaction) : x.key.setWidth 6 = x.addr := by
  rw [Transaction.key, BitVec.setWidth_append_eq_right]

end Sys2Proof

open Sys2Proof Sys2Proof.Machine

/-- Settles O6: a command is read back from its word, and a bus access from the transaction that carries it. -/
theorem decodeReadsBackEncode : Obligations.DecodeReadsBackEncode := by
  intro i hwf
  cases he : encode i with
  | cmd c =>
    obtain ⟨cmd, rfl, hc⟩ := eq_toInstr_of_encode_eq_cmd he
    simp only [decode, (decodeCommand_eq_command_iff c cmd).2 ⟨hwf, hc.symm⟩]
  | bus x =>
    obtain ⟨_, hx | ⟨c, hc, _⟩⟩ := Laws.CarriedByLegalKey.all i
    · rwa [he] at hx
    · rw [he] at hc; cases hc

/-- Settles O7: command words are the encodings of well-formed commands, and an access key gives back both ports of the
transaction. -/
theorem encodeReadsBackDecode : Obligations.EncodeReadsBackDecode := by
  refine ⟨fun c cmd h => ?_, fun x i h => ?_⟩
  · obtain ⟨hwf, rfl⟩ := (decodeCommand_eq_command_iff c cmd).1 h
    exact ⟨hwf, encode_toInstr cmd, rfl⟩
  · have hi := encode_of_decodeKey ((decodeTransaction_instr_iff x i).1 h)
    rwa [x.key_msb, x.key_setWidth] at hi
end

section
/-! The checks of the command decode (R104), what a rejected word does (R281, R282), and the twelve legal words (R105). -/
namespace Sys2Proof.Machine

/-- A CMD write of a word that is no command rejects it with the code of the decode (R283). -/
theorem exec_wrCmd_error {c : Word} {code : ErrorCode} (h : decodeCommand c = .error code) (s : State) :
    exec (.wrCmd c) s = .next (s.rejectCommand code) := by
  simp only [exec, execWrCmd, h]

/-- While ERR = 0 a rejected command raises its CmdError (R282). -/
theorem State.rejectCommand_of_noError (code : ErrorCode) (s : State) (h : s.err = false) : s.rejectCommand code =
    { s with
        err := true, errcode := errorCodeBits code, mayBusy := false,
        responses := .write 0x08 false :: s.responses } := by
  rw [State.rejectCommand_eq, h]; rfl

/-- The word that spells ABSORB 9..15 fails the last check of the decode (R104). -/
theorem decodeCommand_badLen (len : BitVec 4) (h : 8 < len.toNat) :
    decodeCommand (BitVec.ofNat 32 (len.toNat * 16 + 2)) = .error .badLen := by
  have hlen := len.isLt
  have hword : (BitVec.ofNat 32 (len.toNat * 16 + 2)).toNat = len.toNat * 16 + 2 := by
    rw [BitVec.toNat_ofNat]; omega
  rw [decodeCommand_toNat, hword, if_neg (by omega), if_neg (by omega), if_neg (by omega), if_pos (by omega)]

end Sys2Proof.Machine

open Sys2Proof Sys2Proof.Machine

/-- Settles O3: in each clause the checks before the one it names do not apply. -/
theorem commandChecksRunInOrder : Obligations.CommandChecksRunInOrder := by
  intro c
  rw [decodeCommand_toNat]
  refine ⟨fun hop => ?_, fun hop hrsvd => ?_, fun hop hrsvd hnot hlen => ?_, fun hop hrsvd hlen => ?_, fun hop hzero => ?_,
    fun hop hzero => ?_, fun hop hrsvd hlen => ?_, fun hop hzero => ?_⟩
  · rw [if_pos hop]
  · rw [if_neg (by omega), if_pos hrsvd]
  · rw [if_neg (by omega), if_neg (by omega), if_pos ⟨hnot, hlen⟩]
  · rw [if_neg (by omega), if_neg (by omega), if_neg (by omega), if_pos ⟨hop, hlen⟩]
  · rw [if_neg (by omega), if_neg (by omega), if_neg (by omega), if_neg (by omega), if_pos hop]
  · rw [if_neg (by omega), if_neg (by omega), if_neg (by omega), if_neg (by omega), if_neg (by omega), if_pos hop]
  · rw [if_neg (by omega), if_neg (by omega), if_neg (by omega), if_neg (by omega), if_neg (by omega), if_neg (by omega),
      if_pos hop]
  · rw [if_neg (by omega), if_neg (by omega), if_neg (by omega), if_neg (by omega), if_neg (by omega), if_neg (by omega),
      if_neg (by omega)]

/-- Settles O4: the legal words are those of the well-formed commands, and a command has one word. -/
theorem legalCommandWordsAreTheTwelve : Obligations.LegalCommandWordsAreTheTwelve := by
  refine ⟨fun c => ⟨?_, fun h => ?_⟩, fun c s herr hno => ?_, fun c c' cmd h h' => ?_⟩
  · rintro ⟨cmd, h⟩
    obtain ⟨hwf, rfl⟩ := (decodeCommand_eq_command_iff c cmd).1 h
    cases cmd with
    | nop => decide
    | init => decide
    | absorb len => revert len; decide
    | digest => decide
  · simp only [List.mem_cons, List.not_mem_nil, or_false] at h
    rcases h with rfl | rfl | rfl | rfl | rfl | rfl | rfl | rfl | rfl | rfl | rfl | rfl <;> exact ⟨_, rfl⟩
  · cases hc : decodeCommand c with
    | command cmd => exact absurd hc (hno cmd)
    | error code => exact ⟨code, rfl, by rw [exec_wrCmd_error hc, s.rejectCommand_of_noError code herr]⟩
  · rw [((decodeCommand_eq_command_iff c cmd).1 h).2, ((decodeCommand_eq_command_iff c' cmd).1 h').2]

/-- Settles O1: each word is given to the decoder. -/
theorem workedCommandWordsDecode : Obligations.WorkedCommandWordsDecode := by
  unfold Obligations.WorkedCommandWordsDecode; decide

/-- Settles O2: the bits of each row are given to the decoder. -/
theorem writtenOutWordsDecode : Obligations.WrittenOutWordsDecode := by
  unfold Obligations.WrittenOutWordsDecode; decide

/-- Settles O27: the term and the word that spells it are rejected alike. -/
theorem illFormedAbsorbRaisesBadLen : Obligations.IllFormedAbsorbRaisesBadLen := by
  intro len s herr hlen
  have hterm : exec (.absorb len) s = .next (s.rejectCommand .badLen) := by
    simp only [exec, execAbsorb, if_pos hlen]
  rw [exec_wrCmd_error (decodeCommand_badLen len hlen) s, hterm, s.rejectCommand_of_noError .badLen herr]
  exact ⟨rfl, rfl⟩
end

section
/-! The access keys (R106) and the four groups of the illegal ones (R288). -/
namespace Sys2Proof

/-- The legal access keys, as numbers (R106). -/
def legalKeys : List Nat :=
  [0x00, 0x04, 0x0C, 0x10, 0x14, 0x20, 0x24, 0x28, 0x2C, 0x30, 0x34, 0x38, 0x3C, 0x48, 0x50, 0x54]

/-- Whether a key is legal does not depend on wdata (R290). -/
theorem decodeKey_isSome_wdata (k : BitVec 7) (w : Word) : (decodeKey k w).isSome = (decodeKey k 0).isSome := by
  unfold decodeKey; split <;> rfl

theorem decodeKey_isSome_iff (k : BitVec 7) (w : Word) : (decodeKey k w).isSome = true ↔ k.toNat ∈ legalKeys := by
  have hkeys : ∀ k : BitVec 7, (decodeKey k 0).isSome = true ↔ k.toNat ∈ legalKeys := by decide
  rw [decodeKey_isSome_wdata, hkeys]

/-- A transaction is decoded to an instruction exactly when its key is legal (R106). -/
theorem decodeTransaction_isInstr_iff (x : Transaction) :
    (∃ i, decodeTransaction x = .instr i) ↔ (if x.we then 64 else 0) + x.addr.toNat ∈ legalKeys := by
  rw [← key_toNat, ← decodeKey_isSome_iff x.key x.wdata, Option.isSome_iff_exists]
  exact exists_congr fun i => decodeTransaction_instr_iff x i

theorem decodeTransaction_of_not_instr {x : Transaction} (h : ∀ i, decodeTransaction x ≠ .instr i) :
    decodeTransaction x = .rejected (.busError x.addr (busErrorCause x)) := by
  cases hx : decodeTransaction x with
  | instr i => exact absurd hx (h i)
  | rejected r => rw [((decodeTransaction_rejected_iff x r).1 hx).2]

/-- The group of an illegal transaction, over the number of its offset. -/
theorem busErrorCause_toNat (x : Transaction) : busErrorCause x =
    if x.addr.toNat % 4 ≠ 0 then .misaligned
    else if x.addr.toNat = 0x18 ∨ x.addr.toNat = 0x1C then .reservedOffset
    else if x.we then .writeToReadOnly
    else .readOfCmd := by
  simp [busErrorCause, ← BitVec.toNat_inj, BitVec.extractLsb'_toNat]

end Sys2Proof

open Sys2Proof Sys2Proof.Machine

/-- Settles O5: a key is legal whatever wdata is, and an illegal one falls into the group that the branches of the cause
name. -/
theorem legalKeysAreTheSixteen : Obligations.LegalKeysAreTheSixteen := by
  refine ⟨fun w => by simp [decodeKey], decodeTransaction_isInstr_iff, fun x hno => ?_⟩
  have haddr := x.addr.isLt
  have hkey := mt (decodeTransaction_isInstr_iff x).2 (not_exists.2 hno)
  simp only [legalKeys, List.mem_cons, List.not_mem_nil, or_false, not_or] at hkey
  rw [decodeTransaction_of_not_instr hno, busErrorCause_toNat]
  split_ifs with hal hres hwe
  · exact .inl ⟨hal, rfl⟩
  · exact .inr (.inr (.inl ⟨hres, rfl⟩))
  · rw [if_pos hwe] at hkey
    refine .inr (.inr (.inr ⟨hwe, ?_, rfl⟩))
    simp only [List.mem_cons, List.not_mem_nil, or_false]
    omega
  · rw [if_neg hwe] at hkey
    exact .inr (.inl ⟨by simpa using hwe, by omega, rfl⟩)
end

section
/-! The source's absorb byte by byte (R185, R186): a session that holds a message holds it with the absorbed bytes appended. -/
namespace Sys2Proof.Machine

/-- R187: absorbing a and then b is absorbing a followed by b, block after block of what a completes. -/
theorem spongeAbsorb_append (S : LaneMatrix) (buf a b : List Byte) :
    spongeAbsorb (spongeAbsorb S buf a).1 (spongeAbsorb S buf a).2 b = spongeAbsorb S buf (a ++ b) := by
  induction hn : (buf ++ a).length using Nat.strong_induction_on generalizing S buf a with
  | _ n ih =>
    subst hn
    by_cases hlt : (buf ++ a).length < 136
    · rw [spongeAbsorb_short S buf a hlt, spongeAbsorb_joined S (buf ++ a) b, spongeAbsorb_joined S buf (a ++ b),
        List.append_assoc]
    · have hlen : 136 ≤ (buf ++ a).length := Nat.le_of_not_lt hlt
      have hlen' : 136 ≤ (buf ++ (a ++ b)).length := by
        rw [← List.append_assoc, List.length_append]; omega
      rw [spongeAbsorb_block S buf a hlen, spongeAbsorb_block S buf (a ++ b) hlen', ← List.append_assoc,
        List.take_append_of_le_length hlen, List.drop_append_of_le_length hlen,
        ih _ (by rw [List.append_nil, List.length_drop]; omega) _ _ _ rfl, spongeAbsorb_joined _ _ ([] ++ b), List.nil_append]

/-- A byte that does not complete a block is pending after those before it. -/
theorem pending_absorbByte (b : Byte) (s : State) (h : s.bufLen.val < 135) :
    (absorbByte b s).pending = s.pending ++ [b] := by
  rw [absorbByte_notFull b s h]
  simp [State.pending, List.take_add_one, Vector.toList_set, List.take_set_of_le, h]

/-- R186: AbsorbByte is the source's absorb of one byte. -/
theorem spongeAbsorb_singleton (b : Byte) (s : State) :
    spongeAbsorb s.S s.pending [b] = ((absorbByte b s).S, (absorbByte b s).pending) := by
  have hlen := s.bufLen.isLt
  by_cases h : s.bufLen.val < 135
  · rw [spongeAbsorb_short _ _ _ (by simp; omega), pending_absorbByte b s h, absorbByte_notFull b s h]
  · have hfull : s.pending = s.buf.toList := by
      rw [State.pending, List.take_of_length_le (by simp; omega)]
    have hblock : (s.buf.toList ++ [b]).length = 136 := by simp
    rw [spongeAbsorb_block _ _ _ (by rw [hfull, hblock]), hfull, List.take_of_length_le (by rw [hblock]),
      List.drop_of_length_le (by rw [hblock]), blockOf_push, absorbByte_completing b s h]
    rfl

/-- R186: AbsorbByte over a byte string is the source's absorb of it. -/
theorem spongeAbsorb_state (l : List Byte) : ∀ s : State,
    spongeAbsorb s.S s.pending l = ((absorbBytes l s).S, (absorbBytes l s).pending) := by
  induction l with
  | nil =>
    intro s
    rw [spongeAbsorb_short s.S s.pending [] (by simp), List.append_nil]; rfl
  | cons b l ih =>
    intro s
    rw [absorbBytes_cons, ← ih, ← List.singleton_append, ← spongeAbsorb_append, spongeAbsorb_singleton]

/-- A session is held in S, BUF and BUF_LEN alone. -/
theorem State.Holds.of_session {M : List Byte} {s t : State} (h : s.Holds M) (hS : t.S = s.S) (hbuf : t.buf = s.buf)
    (hlen : t.bufLen = s.bufLen) : t.Holds M := by
  unfold State.Holds State.pending
  rw [hS, hbuf, hlen]; exact h

/-- ABSORB n appends the first n bytes of DIN to what the session holds (R233). -/
theorem State.Holds.absorbDin {M : List Byte} {s : State} (h : s.Holds M) (n : Nat) :
    (s.absorbDin n).Holds (M ++ dinBytes n s.din) := by
  unfold State.Holds at h ⊢
  rw [← spongeAbsorb_append, h, spongeAbsorb_state]
  rfl

/-- The bytes of DIN that hold a chunk of at most eight bytes are the chunk (R109). -/
theorem dinBytes_laneOfBytes (chunk : List Byte) (h : chunk.length ≤ 8) :
    dinBytes chunk.length (laneOfBytes fun k => chunk.getD k.val 0) = chunk := by
  apply List.ext_getElem
  · exact dinBytes_length _ h _
  · intro i hi hc
    have hbyte := laneOfBytes_byte (fun k => chunk.getD k.val 0) ⟨i, by omega⟩
    simpa [dinBytes, hc] using hbyte

end Sys2Proof.Machine
end

section
/-! The pseudo-instruction `feed` (R109), run by the atomic machine: each chunk is three steps, which write the two halves of DIN
and absorb the chunk's bytes. -/
namespace Sys2Proof.Machine

/-- A block that takes commands: the engine idle, no error, and a session that holds M. -/
structure State.Accepts (M : List Byte) (s : State) : Prop where
  idle : s.phase = .idle
  noError : s.err = false
  holds : s.Holds M

/-- A block goes on accepting commands after what leaves the session, PHASE and ERR alone. -/
theorem State.Accepts.of_unchanged {M : List Byte} {s t : State} (h : s.Accepts M) (hS : t.S = s.S)
    (hbuf : t.buf = s.buf) (hlen : t.bufLen = s.bufLen) (hphase : t.phase = s.phase) (herr : t.err = s.err) :
    t.Accepts M :=
  ⟨hphase.trans h.idle, herr.trans h.noError, h.holds.of_session hS hbuf hlen⟩

/-- A step from an idle block executes the instruction presented. -/
theorem step_of_idle {s : State} {x : Transaction} {rest : List HostInput} {i : Instr} (hp : s.phase = .idle)
    (hh : s.host = .present x :: rest) (hx : decodeTransaction x = .instr i) :
    step s = exec i { s with host := rest } := by
  have hi : ({ s with host := rest } : State).StartsAtOnce i := .inl hp
  rw [step_present hh, State.acceptTransaction, hx]
  exact congrArg (exec i) hi.waitFor_eq

/-- A run goes on from where its first steps end. -/
theorem run_add {M : Host.Core} (m n : Nat) : ∀ {s t : M.State}, M.run m s = .next t → M.run (m + n) s = M.run n t := by
  induction m with
  | zero => intro s t h; obtain rfl := Host.Outcome.next.inj h; rw [Nat.zero_add]
  | succ m ih =>
    intro s t h
    obtain ⟨a, ha, hrun⟩ := run_succ h
    rw [Nat.succ_add, Host.Core.run, ha]
    exact ih hrun

theorem run_one {M : Host.Core} {s t : M.State} (h : M.step s = .next t) : M.run 1 s = .next t := by
  rw [Host.Core.run, h]; rfl

theorem decodeTransaction_wrDinLo (v : Word) : decodeTransaction (wrReg .dinLo v) = .instr (.wrDinLo v) := by
  simp [decodeTransaction, wrReg, regOffset, Transaction.key, decodeKey]

theorem decodeTransaction_wrDinHi (v : Word) : decodeTransaction (wrReg .dinHi v) = .instr (.wrDinHi v) := by
  simp [decodeTransaction, wrReg, regOffset, Transaction.key, decodeKey]

/-- The line `din` (R109): two steps, after which DIN is the value given. -/
theorem run_dinLines {M : List Byte} {s : State} (h : s.Accepts M) (v : BitVec 64) {rest : List HostInput}
    (hh : s.host = (dinLines v).map .present ++ rest) :
    ∃ t, Host.Core.run core 2 s = .next t ∧ t.host = rest ∧ t.din = v ∧ t.Accepts M := by
  have hlo := step_of_idle h.idle hh (decodeTransaction_wrDinLo (dinLo v))
  have hhi := step_of_idle
    (s := (({ s with host := .present (wrReg .dinHi (dinHi v)) :: rest } : State).setDinLo (dinLo v)).answerWrite 0x10)
    h.idle rfl (decodeTransaction_wrDinHi (dinHi v))
  have hrun := (run_add (M := core) 1 1 (run_one hlo)).trans (run_one (M := core) hhi)
  refine ⟨_, hrun, rfl, ?_, h.of_unchanged rfl rfl rfl rfl rfl⟩
  show dinOf (dinHi v) (dinLo (dinOf (dinHi s.din) (dinLo v))) = v
  rw [dinOf_lo, dinOf_halves]

/-- An executed ABSORB (R233). -/
theorem exec_absorb_of_noError {len : BitVec 4} {s : State} (herr : s.err = false) (hlen : len.toNat ≤ 8) :
    exec (.absorb len) s = .next ((s.absorbDin len.toNat).endCommand (s.completesBlock len.toNat)) := by
  simp only [exec, execAbsorb, herr, if_neg (Nat.not_lt.2 hlen), Bool.false_eq_true, if_false]

/-- The line `absorb n` (R108): one step, which appends the first n bytes of DIN to what the session holds. -/
theorem run_absorbLine {M : List Byte} {s : State} (h : s.Accepts M) (len : BitVec 4) (hlen : len.toNat ≤ 8)
    {rest : List HostInput} (hh : s.host = .present (wrReg .cmd (encodeCommand (.absorb len))) :: rest) :
    ∃ t, Host.Core.run core 1 s = .next t ∧ t.host = rest ∧ t.Accepts (M ++ dinBytes len.toNat s.din) := by
  have hword : decodeCommand (encodeCommand (.absorb len)) = .command (.absorb len) :=
    (decodeCommand_eq_command_iff _ _).2 ⟨by simpa [Command.toInstr, Instr.wf] using hlen, rfl⟩
  have hrest : ({ s with host := rest } : State).Accepts M := h.of_unchanged rfl rfl rfl rfl rfl
  have hstep := step_of_idle h.idle hh (decodeTransaction_wrCmd _)
  rw [exec_wrCmd_command _ _ _ hword, Command.toInstr, exec_absorb_of_noError hrest.noError hlen] at hstep
  have hheld := hrest.holds.absorbDin len.toNat
  refine ⟨_, run_one (M := core) hstep, ?_, ?_, ?_, hheld.of_session rfl rfl rfl⟩
  · rw [State.endCommand_host, State.absorbDin_frame]
  · rw [State.endCommand_phase, State.absorbDin_phase, hrest.idle]
  · rw [State.endCommand_err, State.absorbDin_err, hrest.noError]

/-- One chunk of `feed` (R109): three steps, which append the chunk to what the session holds. -/
theorem run_feedChunk {M : List Byte} {s : State} (h : s.Accepts M) (chunk : List Byte) (hlen : chunk.length ≤ 8)
    {rest : List HostInput} (hh : s.host = (feedChunk chunk).map .present ++ rest) :
    ∃ t, Host.Core.run core 3 s = .next t ∧ t.host = rest ∧ t.Accepts (M ++ chunk) := by
  have hfield : (BitVec.ofNat 4 chunk.length).toNat = chunk.length := by
    rw [BitVec.toNat_ofNat]; omega
  rw [feedChunk, List.map_append, List.append_assoc] at hh
  obtain ⟨a, hrun, hhost, hdin, ha⟩ := run_dinLines h _ hh
  obtain ⟨t, hrun', hhost', ht⟩ := run_absorbLine ha (BitVec.ofNat 4 chunk.length) (by rw [hfield]; exact hlen) hhost
  rw [hfield, hdin, dinBytes_laneOfBytes chunk hlen] at ht
  exact ⟨t, (run_add (M := core) 2 1 hrun).trans hrun', hhost', ht⟩

/-- `feed` begins with a chunk of its first eight bytes, or of all where there are fewer (R109). -/
theorem feedLines_eq_cons (bytes : List Byte) (h : bytes ≠ []) :
    feedLines bytes = feedChunk (bytes.take 8) ++ feedLines (bytes.drop 8) := by
  have hpos := List.length_pos_of_ne_nil h
  have hcount : (bytes.length + 7) / 8 = ((bytes.drop 8).length + 7) / 8 + 1 := by
    rw [List.length_drop]; omega
  have hshift : ∀ q, (bytes.drop 8).drop (8 * q) = bytes.drop (8 * (q + 1)) := by
    intro q; rw [List.drop_drop, Nat.mul_succ, Nat.add_comm]
  simp only [feedLines, hcount, List.range_succ_eq_map, List.flatMap_cons, List.flatMap_map, hshift]
  rfl

/-- The chunks of `feed` one after another, `n` of them (R109). -/
theorem run_feedLines (n : Nat) : ∀ {M bytes : List Byte} {s : State} {rest : List HostInput}, s.Accepts M →
    (bytes.length + 7) / 8 = n → s.host = (feedLines bytes).map .present ++ rest →
    ∃ t, Host.Core.run core (3 * n) s = .next t ∧ t.host = rest ∧ t.Accepts (M ++ bytes) := by
  induction n with
  | zero =>
    intro M bytes s rest h hn hh
    obtain rfl : bytes = [] := List.eq_nil_of_length_eq_zero (by omega)
    exact ⟨s, rfl, hh, by rwa [List.append_nil]⟩
  | succ n ih =>
    intro M bytes s rest h hn hh
    have hne : bytes ≠ [] := by rintro rfl; simp at hn
    rw [feedLines_eq_cons bytes hne, List.map_append, List.append_assoc] at hh
    obtain ⟨a, hrun, hhost, ha⟩ := run_feedChunk h (bytes.take 8) (List.length_take_le 8 bytes) hh
    obtain ⟨t, hrun', hhost', ht⟩ := ih ha (by rw [List.length_drop]; omega) hhost
    rw [List.append_assoc, List.take_append_drop] at ht
    refine ⟨t, ?_, hhost', ht⟩
    rw [Nat.mul_succ, Nat.add_comm]
    exact (run_add (M := core) 3 (3 * n) hrun).trans hrun'

end Sys2Proof.Machine

open Sys2Proof Sys2Proof.Machine

/-- Settles O47: each chunk is absorbed, one after another, and together they are the bytes. -/
theorem feedAbsorbsItsBytes : Obligations.FeedAbsorbsItsBytes := by
  intro s M bytes rest hp herr hM hh
  rw [assemble, List.flatMap_singleton, AsmLine.expand] at hh
  obtain ⟨t, hrun, hhost, ht⟩ := run_feedLines _ ⟨hp, herr, hM⟩ rfl hh
  exact ⟨t, hrun, hhost, ht.holds⟩
end

section
/-! The rounds the engine applies edge by edge (R145, R331): PHASE and ROUND while it runs, and the edge that ends it. -/
namespace Sys2Proof.Machine

/-- ROUNDS_PER_CYCLE divides 24 (R145). -/
theorem roundsPerCycle_dvd (rpc : Config.RoundsPerCycle) : rpc.toNat ∣ 24 := by
  cases rpc <;> decide

theorem State.busy_eq_true_iff (s : State) : s.busy = true ↔ s.phase ≠ .idle := by
  rw [Ne, ← s.busy_eq_false_iff, Bool.not_eq_false]

/-- An edge before the last one goes on with the same permutation, `n` rounds further (R145). -/
theorem State.engineEdge_running {n : Nat} {s : State} (hp : s.phase ≠ .idle) (h : s.round.val + n < 24) :
    (s.engineEdge n).phase = s.phase ∧ (s.engineEdge n).round.val = s.round.val + n := by
  unfold State.engineEdge
  rw [dif_pos h]
  cases hs : s.phase with
  | idle => exact absurd hs hp
  | permS => exact ⟨rfl, rfl⟩
  | permW => exact ⟨rfl, rfl⟩

/-- `k` edges before the last one apply `k * n` rounds (R145). -/
theorem State.engineEdge_iterate_running {n : Nat} {s : State} (hp : s.phase ≠ .idle) (k : Nat)
    (h : s.round.val + k * n < 24) : ((State.engineEdge n)^[k] s).phase = s.phase ∧
      ((State.engineEdge n)^[k] s).round.val = s.round.val + k * n := by
  induction k with
  | zero => simp
  | succ k ih =>
    rw [Nat.succ_mul, ← Nat.add_assoc] at h ⊢
    obtain ⟨hphase, hround⟩ := ih (by omega)
    rw [Function.iterate_succ_apply', ← hphase, ← hround]
    exact State.engineEdge_running (hphase ▸ hp) (hround ▸ h)

/-- No number of edges changes what the wait ends with (R145). -/
theorem State.waitIdle_engineEdge_iterate (n k : Nat) (s : State) : ((State.engineEdge n)^[k] s).waitIdle = s.waitIdle := by
  have hedge : Function.Semiconj State.waitIdle (State.engineEdge n) id := State.waitIdle_engineEdge n
  simpa using hedge.iterate_right k s

/-- The edges of a whole permutation are the wait for its end (R331, R332). -/
theorem State.engineEdge_iterate_whole {n : Nat} (hn : n ∣ 24) {s : State} (hr : s.round = 0) (hp : s.phase ≠ .idle) :
    (State.engineEdge n)^[24 / n] s = s.waitIdle := by
  have hpos : 0 < n := Nat.pos_of_dvd_of_pos hn (by decide)
  obtain ⟨k, hk⟩ := Nat.exists_eq_add_one.2 (Nat.div_pos (Nat.le_of_dvd (by decide) hn) hpos)
  have hall : k * n + n = 24 := by rw [← Nat.add_one_mul, ← hk, Nat.div_mul_cancel hn]
  have hround : ((State.engineEdge n)^[k] s).round.val = k * n := by
    rw [(State.engineEdge_iterate_running hp k (by rw [hr, Fin.val_zero]; omega)).2, hr, Fin.val_zero, Nat.zero_add]
  rw [hk, Function.iterate_succ_apply', State.engineEdge_last _ _ (by omega), State.waitIdle_engineEdge_iterate]

end Sys2Proof.Machine

open Sys2Proof Sys2Proof.Machine

/-- Settles O39: before the last edge the engine still runs, and the edges of a whole permutation are the wait for its end,
at which it has applied all rounds. -/
theorem engineComputesKeccakF : Obligations.EngineComputesKeccakF := by
  intro rpc s hr
  have hdvd := roundsPerCycle_dvd rpc
  refine ⟨fun hp k hk => ?_, fun hp => ?_, fun hp => ⟨_, rfl, ?_⟩⟩
  · have hlt : s.round.val + k * rpc.toNat < 24 := by
      rw [hr, Fin.val_zero, Nat.zero_add]
      exact (Nat.lt_div_iff_mul_lt_of_dvd (Nat.pos_of_dvd_of_pos hdvd (by decide)).ne' hdvd).1 hk
    rw [State.busy_eq_true_iff, (State.engineEdge_iterate_running hp k hlt).1]
    exact hp
  · rw [State.engineEdge_iterate_whole hdvd hr (by simp [hp]), s.waitIdle_of_permS hp, hr, Fin.val_zero,
      remainingRounds_zero]
  · rw [State.engineEdge_iterate_whole hdvd hr (by simp [hp]), s.waitIdle_of_permW hp, hr, Fin.val_zero,
      remainingRounds_zero]
    exact ⟨rfl, fun i => squeeze_getElem _ i i.isLt⟩
end

section
/-! The steps of the round (R130, R137, R139): rotations that do nothing, and the two directions of the relocation of lanes. -/
namespace Sys2Proof.Machine

/-- A rotation by a multiple of 64 is none (R130). -/
theorem rotl64_of_mod_eq_zero (v : Lane) {n : Nat} (h : n % 64 = 0) : rotl64 v n = v := by
  unfold rotl64; exact if_pos h

@[simp] theorem rotl64_zero_lane (n : Nat) : rotl64 0 n = 0 := by
  simp [rotl64]

/-- Rotations by amounts that add up to a multiple of 64 undo each other (R130). -/
theorem rotl64_rotl64_cancel (v : Lane) {m n : Nat} (h : (m + n) % 64 = 0) : rotl64 (rotl64 v m) n = v := by
  apply BitVec.eq_of_getLsbD_eq
  intro i hi
  rw [rotl64_getLsbD _ _ _ hi, rotl64_getLsbD _ _ _ (by omega)]
  congr 1
  omega

/-- The lane that Pi takes to column y and row 2x + 3y is that of column x (R139). -/
theorem piSource_piTarget (x y : Fin 5) : y + 3 * (2 * x + 3 * y) = x := by
  revert x y; decide

/-- Pi takes the lane it reads for row Y of column X to row Y (R139). -/
theorem piTarget_piSource (X Y : Fin 5) : 2 * (X + 3 * Y) + 3 * X = Y := by
  revert X Y; decide

end Sys2Proof.Machine

open Sys2Proof Sys2Proof.Machine

/-- Settles O34: the bits move by the amount mod 64, and n and 64 − n add up to 64. -/
theorem rotationMovesBits : Obligations.RotationMovesBits :=
  ⟨rotl64_getLsbD, fun v n hn => rotl64_rotl64_cancel v (by omega),
    fun v => ⟨rotl64_of_mod_eq_zero v rfl, rotl64_of_mod_eq_zero v rfl⟩⟩

/-- Settles O35: with even column parity both lanes that Theta XORs in are zero. -/
theorem thetaStep : Obligations.ThetaStep := by
  refine ⟨theta_getElem, fun A hC => LaneMatrix.ext_lanes fun x y => ?_⟩
  rw [theta_getElem, hC, hC, rotl64_zero_lane]
  simp

/-- Settles O36: the gather form reads each lane at the place from which the scatter form writes it. -/
theorem rhoPiScatters : Obligations.RhoPiScatters := by
  refine ⟨fun A x y => ?_, fun x y => ?_, fun X Y => ?_⟩
  · rw [rhoPi_getElem]
    simp only [piSource_piTarget]
  · rw [piSource_piTarget]
  · rw [piTarget_piSource]

/-- Settles O37: in a row of ones the AND of Chi has a complement of ones, which is 0. -/
theorem chiAndIotaSteps : Obligations.ChiAndIotaSteps := by
  refine ⟨chi_getElem, fun B y hB x => ?_, fun A i => ⟨iota_getElem A i 0 0, fun x y hxy => ?_⟩⟩
  · rw [chi_getElem, hB, hB, hB]
    rfl
  · rw [iota_getElem, if_neg fun h => hxy (Prod.ext h.1 h.2)]
end

section
/-! The walk that gives the rotation offsets (R135), and the hash of a message that fills no block (R193). -/
namespace Sys2Proof.Machine

/-- The walk of R135 visits every lane but (0, 0). -/
theorem rotWalk_visits (x y : Fin 5) (h : (x, y) ≠ (0, 0)) : ∃ t : Fin 24, rotWalk t.val = (x, y) := by
  revert x y; decide

/-- The walk of R135 visits no lane twice. -/
theorem rotWalk_injective : Function.Injective fun t : Fin 24 => rotWalk t.val := by
  decide

/-- A message of less than a block is hashed by one padded block (R193). -/
theorem keccak256_of_short (M : List Byte) (h : M.length < 136) : keccak256 M = digestOf LaneMatrix.zero M := by
  unfold keccak256
  rw [spongeAbsorb_short _ _ _ (by simpa using h), List.nil_append]

end Sys2Proof.Machine

open Sys2Proof Sys2Proof.Machine

/-- Settles O38: the table entries are computed by their generators; the walk visits every other lane, and none twice. -/
theorem tablesAreTheirGenerators : Obligations.TablesAreTheirGenerators := by
  refine ⟨by decide +kernel, rfl, by decide, fun x y hxy => ?_⟩
  obtain ⟨t, ht⟩ := rotWalk_visits x y hxy
  exact ⟨t, ht, fun u hu => rotWalk_injective (hu.trans ht.symm)⟩

/-- Settles O40: the kernel runs KeccakF on the two operands, the zero matrix and the padded block of the empty message. -/
theorem knownAnswers : Obligations.KnownAnswers := by
  refine ⟨by decide +kernel, ?_⟩
  rw [keccak256_of_short [] (by decide)]
  decide +kernel
end

section
/-! The serialization lane by lane (R180, R182): the bytes of the serialization and the lanes of its inverse. -/
namespace Sys2Proof.Machine

/-- Byte k of the lane (x, y) in the serialization (R180). -/
theorem ser_lane (A : LaneMatrix) (x y : Fin 5) (k : Fin 8) :
    (ser A)[8 * (5 * y.val + x.val) + k.val] = laneByte A[x][y] k.val := by
  rw [ser_getElem, serByte_lane]

theorem deser_getElem (b : Vector Byte 200) (x y : Fin 5) :
    (deser b)[x][y] = laneOfBytes fun k => b[8 * (5 * y.val + x.val) + k.val] := by
  simp [deser]

/-- Byte strings of a matrix's length with the same bytes in every lane are equal (R180). -/
theorem eq_of_laneBytes {b d : Vector Byte 200} (h : ∀ (x y : Fin 5) (k : Fin 8),
    b[8 * (5 * y.val + x.val) + k.val] = d[8 * (5 * y.val + x.val) + k.val]) : b = d := by
  apply Vector.ext
  intro i hi
  have hlane := h ⟨i / 8 % 5, by omega⟩ ⟨i / 40, by omega⟩ ⟨i % 8, by omega⟩
  have hindex : 8 * (5 * (i / 40) + i / 8 % 5) + i % 8 = i := by omega
  simpa only [hindex] using hlane

/-- A lane of the capacity keeps its value when a block is absorbed (R181, R182). -/
theorem absorbBlock_capacity (A : LaneMatrix) (blk : Vector Byte 136) (x y : Fin 5) (h : 17 ≤ 5 * y.val + x.val) :
    (absorbBlock A blk)[x][y] = A[x][y] :=
  (absorbBlock_getElem A blk x y x.isLt y.isLt).trans (dif_neg (Nat.not_lt.2 h))

/-- A lane of the rate is XORed with the block's lane when the block is absorbed (R181, R182). -/
theorem absorbBlock_rate (A : LaneMatrix) (blk : Vector Byte 136) (x y : Fin 5) (h : 5 * y.val + x.val < 17) :
    (absorbBlock A blk)[x][y] = A[x][y] ^^^ laneOfBytes fun k => blk[8 * (5 * y.val + x.val) + k.val] :=
  (absorbBlock_getElem A blk x y x.isLt y.isLt).trans (dif_pos h)

end Sys2Proof.Machine

open Sys2Proof Sys2Proof.Machine

/-- Settles O41: lane by lane, the bytes of a lane put together are the lane, and the lane of eight bytes has these bytes. -/
theorem serializationIsInvertible : Obligations.SerializationIsInvertible := by
  refine ⟨ser_lane, fun A => LaneMatrix.ext_lanes fun x y => ?_, fun b => eq_of_laneBytes fun x y k => ?_⟩
  · rw [deser_getElem]
    simp only [ser_lane]
    exact laneOfBytes_laneByte _
  · rw [ser_lane, deser_getElem]
    exact laneOfBytes_byte _ k

/-- Settles O42: a lane of the rate is XORed byte by byte, one of the capacity with zero bytes. -/
theorem absorbBlockXorsTheRate : Obligations.AbsorbBlockXorsTheRate := by
  refine ⟨fun A blk => LaneMatrix.ext_lanes fun x y => ?_, absorbBlock_capacity⟩
  rw [deser_getElem]
  simp only [Vector.getElem_zipWith, ser_lane]
  by_cases h : 5 * y.val + x.val < 17
  · have hblock (k : Fin 8) : (blk ++ Vector.replicate 64 (0x00 : Byte))[8 * (5 * y.val + x.val) + k.val] =
        blk[8 * (5 * y.val + x.val) + k.val] := Vector.getElem_append_left (by omega)
    simp only [hblock]
    rw [laneOfBytes_xor, laneOfBytes_laneByte, absorbBlock_rate A blk x y h]
  · have hzero (k : Fin 8) : (blk ++ Vector.replicate 64 (0x00 : Byte))[8 * (5 * y.val + x.val) + k.val] = 0#8 := by
      rw [Vector.getElem_append_right _ (by omega), Vector.getElem_replicate]
      rfl
    simp only [hzero, BitVec.xor_zero]
    rw [laneOfBytes_laneByte, absorbBlock_capacity A blk x y (Nat.le_of_not_lt h)]
end

section
/-! The source's absorb block by block (R185, R187, R193), and the padding at each length (R188). -/
namespace Sys2Proof.Machine

/-- The state after the block of index j of a byte string is absorbed and permuted (R193). -/
def absorbNthBlock (l : List Byte) (S : LaneMatrix) (j : Nat) : LaneMatrix :=
  keccakF (absorbBlock S (blockOf ((l.drop (136 * j)).take 136)))

/-- The loop of R185 absorbs the first n blocks in order and leaves the bytes after them. -/
theorem drain_eq_foldl (n : Nat) : ∀ (S : LaneMatrix) (l : List Byte),
    drain n S l = ((List.range n).foldl (absorbNthBlock l) S, l.drop (136 * n)) := by
  induction n with
  | zero => intro S l; rfl
  | succ n ih =>
    intro S l
    have hdrop (j : Nat) : (l.drop 136).drop (136 * j) = l.drop (136 * (j + 1)) := by
      rw [List.drop_drop, Nat.add_comm, ← Nat.mul_succ]
    have hshift : absorbNthBlock (l.drop 136) = fun S j => absorbNthBlock l S (j + 1) := by
      funext S j
      rw [absorbNthBlock, hdrop]; rfl
    rw [drain, ih, hdrop, hshift, List.range_succ_eq_map, List.foldl_cons, List.foldl_map]
    rfl

/-- The source's absorb leaves pending what does not fill a block (R185). -/
theorem spongeAbsorb_pending_length (S : LaneMatrix) (buf data : List Byte) :
    (spongeAbsorb S buf data).2.length = (buf ++ data).length % 136 := by
  rw [spongeAbsorb, drain_eq_foldl, List.length_drop]
  omega

/-- The final absorb of R190 is the source's absorb of the padding. -/
theorem spongeAbsorb_pad (S : LaneMatrix) (buf : List Byte) (h : buf.length < 136) :
    (spongeAbsorb S buf (pad buf.length 136)).1 = absorbFinal S buf := by
  have hblock : (buf ++ pad buf.length 136).length = 136 := by
    rw [List.length_append, pad_length _ h]; omega
  rw [spongeAbsorb, hblock, drain_eq_foldl]
  show keccakF (absorbBlock S (blockOf ((buf ++ pad buf.length 136).take 136))) = _
  rw [List.take_of_length_le hblock.le]
  rfl

/-- The hash is squeezed from the source's absorb of the padded message (R193). -/
theorem keccak256_eq_squeeze (M : List Byte) :
    keccak256 M = squeeze (spongeAbsorb LaneMatrix.zero [] (M ++ pad (M.length % 136) 136)).1 := by
  have hpending := spongeAbsorb_pending_length LaneMatrix.zero [] M
  rw [List.nil_append] at hpending
  rw [← spongeAbsorb_append, ← hpending, spongeAbsorb_pad _ _ (by omega)]
  rfl

/-- The padded message is a whole number of blocks, one more than the message fills (R188, R193). -/
theorem padded_length (M : List Byte) :
    (M ++ pad (M.length % 136) 136).length = 136 * (M.length / 136 + 1) := by
  rw [List.length_append, pad_length _ (Nat.mod_lt _ (by decide))]
  omega

/-- The padding where more than one byte of the block is missing (R188). -/
theorem pad_of_lt {used : Nat} (h : used < 135) :
    pad used 136 = [0x01] ++ List.replicate (134 - used) 0x00 ++ [0x80] := by
  have hzeros : 136 - used - 2 = 134 - used := by omega
  unfold pad
  simp only
  rw [if_neg (show ¬136 - used = 0 by omega), if_neg (show ¬136 - used = 1 by omega), hzeros]

/-- The padding begins with the domain bit and ends with the final bit (R188). -/
theorem pad_markers {used : Nat} (h : used ≤ 136) : ∃ first last, (pad used 136).head? = some first ∧
    (pad used 136).getLast? = some last ∧ first.getLsbD 0 = true ∧ last.getLsbD 7 = true := by
  obtain hlt | rfl | rfl : used < 135 ∨ used = 135 ∨ used = 136 := by omega
  · rw [pad_of_lt hlt]
    exact ⟨0x01, 0x80, rfl, List.getLast?_concat, by decide, by decide⟩
  · exact ⟨0x81, 0x81, rfl, rfl, by decide, by decide⟩
  · exact ⟨0x01, 0x80, rfl, rfl, by decide, by decide⟩

end Sys2Proof.Machine

open Sys2Proof Sys2Proof.Machine

/-- Settles O44: what is left pending is a remainder mod 136. -/
theorem absorbIsIncremental : Obligations.AbsorbIsIncremental := by
  refine fun S buf a b => ⟨spongeAbsorb_append S buf a b, ?_⟩
  rw [spongeAbsorb_pending_length]
  exact Nat.mod_lt _ (by decide)

/-- Settles O45: the source absorbs the padding after the message, and its loop goes over the blocks of the two joined. -/
theorem hashIsBlockwise : Obligations.HashIsBlockwise := by
  refine fun M => ⟨padded_length M, ?_⟩
  rw [keccak256_eq_squeeze, spongeAbsorb, List.nil_append, padded_length, Nat.mul_div_cancel_left _ (by decide),
    drain_eq_foldl]
  rfl

/-- Settles O43: the lengths and the bytes at each length, with one byte missing, with more, and with none. -/
theorem paddingFillsOneBlock : Obligations.PaddingFillsOneBlock :=
  ⟨pad_length, rfl, fun _ h => pad_markers h, rfl, fun _ h => pad_of_lt h, rfl⟩

/-- Settles O22: a byte is placed in BUF or completes its block, and byte after byte this is the source's absorb. -/
theorem absorbByteIsTheSourcesAbsorb : Obligations.AbsorbByteIsTheSourcesAbsorb := by
  refine ⟨fun b s h => ?_, fun b s h => ⟨_, rfl, ?_⟩, fun data s => spongeAbsorb_state data s⟩
  · rw [blockOf_push, absorbByte_completing b s (by omega)]
  · rw [absorbByte_notFull b s h]
    refine ⟨rfl, rfl, fun i => ?_⟩
    rw [Fin.getElem_fin, Vector.getElem_set]
    exact if_congr eq_comm rfl rfl
end

section
/-! Reads of ID and PARAM (R238, R239), and the accesses of DIN (R236, R237, R241, R242): none of them waits. -/
namespace Sys2Proof.Machine

/-- A legal access that does not wait is taken at once, whatever runs (R334). -/
theorem State.ready_of_not_waits {x : Transaction} {i : Instr} (hx : decodeTransaction x = .instr i)
    (hi : waitsForIdle i = false) (s : State) : s.ready x = true := by
  rw [State.ready_of_instr hx, hi, Bool.and_false, Bool.not_false]

theorem decodeTransaction_rdId (w : Word) :
    decodeTransaction { we := false, addr := 0x00, wdata := w } = .instr .rdId := by
  simp [decodeTransaction, Transaction.key, decodeKey]

theorem decodeTransaction_rdParam (w : Word) :
    decodeTransaction { we := false, addr := 0x04, wdata := w } = .instr .rdParam := by
  simp [decodeTransaction, Transaction.key, decodeKey]

theorem decodeTransaction_rdDinLo (w : Word) :
    decodeTransaction { we := false, addr := 0x10, wdata := w } = .instr .rdDinLo := by
  simp [decodeTransaction, Transaction.key, decodeKey]

theorem decodeTransaction_rdDinHi (w : Word) :
    decodeTransaction { we := false, addr := 0x14, wdata := w } = .instr .rdDinHi := by
  simp [decodeTransaction, Transaction.key, decodeKey]

/-- The PARAM word as a number: each field at its place (R33). -/
theorem paramWord_toNat (rpc : Config.RoundsPerCycle) :
    (paramWord rpc).toNat = 0x01 * 2 ^ 24 + 0x20 * 2 ^ 16 + 0x88 * 2 ^ 8 + rpc.toNat := by
  have hrpc : rpc.toNat < 2 ^ 8 := lt_of_le_of_lt (Nat.le_of_dvd (by decide) (roundsPerCycle_dvd rpc)) (by decide)
  simp only [paramWord, toNat_append_eq, BitVec.toNat_ofNat, Nat.mod_eq_of_lt hrpc]
  rfl

end Sys2Proof.Machine

open Sys2Proof Sys2Proof.Machine

/-- Settles O15: neither read waits; the fields of PARAM stand side by side, the last one any legal ROUNDS_PER_CYCLE. -/
theorem idAndParamReads : Obligations.IdAndParamReads := by
  refine ⟨fun s w => ?_, fun s => rfl, fun s => ⟨_, rfl, rfl⟩, fun rpc => ⟨paramWord_toNat rpc, ?_⟩, by decide⟩
  · have hid := decodeTransaction_rdId w
    have hparam := decodeTransaction_rdParam w
    exact ⟨hid, s.ready_of_not_waits hid rfl, hparam, s.ready_of_not_waits hparam rfl⟩
  · cases rpc <;> decide

/-- Settles O17: a write puts its word beside the other half of DIN, from which each half is read back. -/
theorem dinAccesses : Obligations.DinAccesses := by
  refine ⟨fun s v => ?_,
    fun s v => ⟨⟨_, rfl, dinOf_lo _ _, dinOf_hi _ _⟩, ⟨_, rfl, dinOf_lo _ _, dinOf_hi _ _⟩, rfl, rfl⟩⟩
  have hwlo := decodeTransaction_wrDinLo v
  have hwhi := decodeTransaction_wrDinHi v
  have hrlo := decodeTransaction_rdDinLo v
  have hrhi := decodeTransaction_rdDinHi v
  exact ⟨hwlo, s.ready_of_not_waits hwlo rfl, hwhi, s.ready_of_not_waits hwhi rfl, hrlo, s.ready_of_not_waits hrlo rfl,
    hrhi, s.ready_of_not_waits hrhi rfl⟩
end

section
/-! The commands (R230 to R235): how a presented encoding is run, and what NOP, INIT, ABSORB and DIGEST do, with the words that
come near to each of them. -/
namespace Sys2Proof.Machine

/-- What an encoding decodes to on the bus has, executed, the meaning of the instruction it encodes (R34, R230). -/
theorem decodeTransaction_encode {i : Instr} (hwf : i.wf = true) :
    ∃ j, decodeTransaction (encode i).transaction = .instr j ∧ ∀ s, exec j s = exec i s := by
  obtain ⟨_, hx | ⟨c, hc, hx⟩⟩ := Laws.CarriedByLegalKey.all i
  · exact ⟨i, hx, fun _ => rfl⟩
  · obtain ⟨cmd, rfl, hword⟩ := eq_toInstr_of_encode_eq_cmd hc
    exact ⟨_, hx, fun s => exec_wrCmd_command c cmd s ((decodeCommand_eq_command_iff c cmd).2 ⟨hwf, hword.symm⟩)⟩

/-- A word with OP = 0, 1 or 3 is RESERVED_BITS unless it is OP alone (R103, R104). -/
theorem decodeCommand_of_ne_op {c : Word} {op : Nat} (hop : op < 4) (hlenless : op ≠ 2) (hc : c.toNat % 16 = op)
    (hne : c ≠ BitVec.ofNat 32 op) : decodeCommand c = .error .reservedBits := by
  obtain ⟨_, hrsvd, hlen, _⟩ := commandChecksRunInOrder c
  have hhigh : c.toNat / 16 ≠ 0 := by
    intro h0
    refine hne (BitVec.eq_of_toNat_eq ?_)
    rw [BitVec.toNat_ofNat]
    omega
  by_cases h0 : c.toNat / 256 = 0
  · exact hlen (by omega) h0 (by omega) (by omega)
  · exact hrsvd (by omega) h0

/-- While ERR = 0 such a word raises its CmdError (R281, R282). -/
theorem exec_wrCmd_of_ne_op {c : Word} {op : Nat} (hop : op < 4) (hlenless : op ≠ 2) (hc : c.toNat % 16 = op)
    (hne : c ≠ BitVec.ofNat 32 op) {s : State} (herr : s.err = false) :
    exec (.wrCmd c) s = .next { s with
      err := true, errcode := 2, mayBusy := false, responses := .write 0x08 false :: s.responses } := by
  rw [exec_wrCmd_error (decodeCommand_of_ne_op hop hlenless hc hne), s.rejectCommand_of_noError _ herr]
  rfl

/-- An executed DIGEST (R234). -/
theorem exec_digest_of_noError {s : State} (herr : s.err = false) :
    exec .digest s = .next (s.computeDigest.endCommand true) := by
  simp only [exec, execDigest, herr, Bool.false_eq_true, if_false]

/-- The permuted copy of a DIGEST, with the padding that BUF_LEN asks for (R190, R234). -/
theorem State.absorbFinal_eq (s : State) : absorbFinal s.S s.pending =
    keccakF (absorbBlock s.S (blockOf (s.buf.toList.take s.bufLen.val ++ pad s.bufLen.val 136))) := by
  rw [absorbFinal, finalBlock, State.pending_length]
  rfl

/-- The bytes an ABSORB takes are the low-order bytes of DIN, the lowest first (R76). -/
theorem dinBytes_eq_map {n : Nat} (h : n ≤ 8) (d : BitVec 64) :
    dinBytes n d = (List.range n).map fun k => d.extractLsb' (8 * k) 8 := by
  rw [dinBytes, ← List.map_take, List.take_range, Nat.min_eq_left h]
  rfl

theorem digestValidAfterAbsorb_eq (n : Nat) (v : Bool) : digestValidAfterAbsorb n v = if n = 0 then v else false := by
  obtain rfl | hpos := n.eq_zero_or_pos
  · rfl
  · rw [digestValidAfterAbsorb_of_pos hpos, if_neg hpos.ne']

/-- The state after an executed ABSORB of n bytes, with the bytes, the length and the flags as R233 gives them. -/
theorem State.absorbDin_effect {n : Nat} (h : n ≤ 8) (s : State) :
    s.absorbDin n = { s with
      S := (s.absorbDin n).S, buf := (s.absorbDin n).buf, bufLen := (s.absorbDin n).bufLen,
      digestValid := if n = 0 then s.digestValid else false } ∧
    ((s.absorbDin n).S, (s.absorbDin n).pending) =
      spongeAbsorb s.S s.pending ((List.range n).map fun k => s.din.extractLsb' (8 * k) 8) ∧
    (s.absorbDin n).bufLen.val = (s.bufLen.val + n) % 136 := by
  refine ⟨?_, ?_, ?_⟩
  · rw [← digestValidAfterAbsorb_eq, State.absorbDin_frame]
  · rw [← dinBytes_eq_map h, spongeAbsorb_state]
    rfl
  · have hlen := absorbBytes_bufLen (dinBytes n s.din) s
    rwa [dinBytes_length n h] at hlen

end Sys2Proof.Machine

open Sys2Proof Sys2Proof.Machine

/-- Settles O9: the key of the encoding gives the instruction, or the CMD write of the word of its command. -/
theorem presentedEncodingRuns : Obligations.PresentedEncodingRuns := by
  refine ⟨exec_wrCmd_command, fun i s hwf hp => ?_⟩
  obtain ⟨j, hj, hexec⟩ := decodeTransaction_encode hwf
  exact (step_of_idle (s := s.presentEncoding (encode i)) hp rfl hj).trans (hexec s)

/-- Settles O20: NOP only ends its CMD write, and its word is OP alone. -/
theorem nopChangesNothing : Obligations.NopChangesNothing :=
  ⟨fun s => ⟨rfl, exec_wrCmd_command _ _ s decodeCommand_nop⟩,
    fun _ _ herr hop hne => exec_wrCmd_of_ne_op (by decide) (by decide) hop hne herr⟩

/-- Settles O21: INIT writes the empty session of the reset state, and its word is OP alone. -/
theorem initStartsANewSession : Obligations.InitStartsANewSession := by
  refine ⟨rfl, fun c s hop hne => ?_, fun s => ⟨_, rfl, exec_wrCmd_command _ _ s decodeCommand_init, rfl, ?_⟩⟩
  · rw [exec_wrCmd_error (decodeCommand_of_ne_op (by decide) (by decide) hop hne), State.rejectCommand_eq]
    rfl
  · exact ⟨fun x y => LaneMatrix.zero_getElem x y x.isLt y.isLt, fun i => Vector.getElem_replicate i.isLt,
      fun i => Vector.getElem_replicate i.isLt⟩

/-- Settles O24: the padding is as long as BUF_LEN asks, and DOUTB is the front of the serialization of W. -/
theorem digestShowsThePaddedCopy : Obligations.DigestShowsThePaddedCopy := by
  refine ⟨fun c s herr hop hne => exec_wrCmd_of_ne_op (by decide) (by decide) hop hne herr, fun s herr => ?_⟩
  have hexec := exec_digest_of_noError herr
  refine ⟨_, hexec, (exec_wrCmd_command _ _ s decodeCommand_digest).trans hexec, ?_, fun i => squeeze_getElem _ _ i.isLt⟩
  rw [← s.absorbFinal_eq]
  rfl

/-- Settles O25: a DIGEST writes nothing it reads. -/
theorem secondDigestChangesNothing : Obligations.SecondDigestChangesNothing := by
  intro s t u herr ht hu
  obtain rfl := Host.Outcome.next.inj ((exec_digest_of_noError herr).symm.trans ht)
  obtain rfl := Host.Outcome.next.inj ((exec_digest_of_noError (s := s.computeDigest.endCommand true) herr).symm.trans hu)
  exact ⟨rfl, rfl, rfl, rfl⟩

/-- Settles O23: RSVD is checked before LEN, and an executed ABSORB is the source's absorb of the bytes of DIN. -/
theorem absorbFeedsTheBytesOfDin : Obligations.AbsorbFeedsTheBytesOfDin := by
  refine ⟨fun c s herr hop hbad => ?_, fun len s hlen herr => ?_⟩
  · obtain ⟨_, hrsvd, _, hbadLen, _⟩ := commandChecksRunInOrder c
    by_cases h0 : c.toNat / 256 = 0
    · rw [exec_wrCmd_error (hbadLen hop h0 (hbad.resolve_left (not_not_intro h0))), s.rejectCommand_of_noError _ herr,
        if_pos h0]
      rfl
    · rw [exec_wrCmd_error (hrsvd (by omega) h0), s.rejectCommand_of_noError _ herr, if_neg h0]
      rfl
  · have hexec := exec_absorb_of_noError herr hlen
    obtain ⟨hframe, hsponge, hbufLen⟩ := s.absorbDin_effect hlen
    refine ⟨_, hexec, (exec_wrCmd_command _ _ s (decodeCommand_absorb len hlen)).trans hexec, ?_, hsponge, hbufLen⟩
    exact congrArg (State.endCommand (s.completesBlock len.toNat)) hframe
end

section
/-! A program's observation (R339): the writes add nothing to it, and the DOUT reads add the words of DOUTB. -/
namespace Sys2Proof.Machine

/-- The write accesses of R106. -/
theorem write_of_decodeTransaction {x : Transaction} {i : Instr} (hwe : x.we = true)
    (hx : decodeTransaction x = .instr i) : ∃ v, i = .wrCmd v ∨ i = .wrDinLo v ∨ i = .wrDinHi v := by
  obtain ⟨-, hi⟩ := encode_of_decodeKey ((decodeTransaction_instr_iff x i).1 hx)
  rw [x.key_msb, hwe] at hi
  cases i
  case wrCmd v => exact ⟨v, .inl rfl⟩
  case wrDinLo v => exact ⟨v, .inr (.inl rfl)⟩
  case wrDinHi v => exact ⟨v, .inr (.inr rfl)⟩
  all_goals cases hi

@[simp] theorem State.absorbDin_responses (n : Nat) (s : State) : (s.absorbDin n).responses = s.responses := by
  rw [State.absorbDin_frame]

/-- A CMD write, whatever its word does, answers one write (R230). -/
theorem responses_of_exec_wrCmd {c : Word} {s t : State} (h : exec (.wrCmd c) s = .next t) :
    t.responses = .write 0x08 false :: s.responses := by
  cases hc : decodeCommand c with
  | command cmd =>
    rw [exec_wrCmd_command c cmd s hc] at h
    rcases command_cases c cmd hc s t h with ⟨_, _, rfl⟩ | ⟨_, _, rfl⟩ | ⟨_, _, _, _, ⟨_, rfl⟩ | ⟨_, rfl⟩⟩ |
      ⟨_, _, ⟨_, rfl⟩ | ⟨_, rfl⟩⟩
    all_goals simp
  | error code =>
    rw [exec_wrCmd_error hc] at h
    obtain rfl := Host.Outcome.next.inj h
    rw [State.rejectCommand_eq]

/-- A write, legal or not, is answered by one write. -/
theorem responses_of_step_write {s t : State} {x : Transaction} {rest : List HostInput}
    (hh : s.host = .present x :: rest) (hwe : x.we = true) (h : step s = .next t) :
    ∃ off e, t.responses = .write off e :: s.responses := by
  rw [step_present hh, State.acceptTransaction] at h
  cases hx : decodeTransaction x with
  | rejected r =>
    rw [hx] at h
    obtain rfl := Host.Outcome.next.inj h
    exact ⟨x.addr, true, by simp [hwe]⟩
  | instr i =>
    rw [hx] at h
    have hwait : (State.waitFor i { s with host := rest }).responses = s.responses := by
      unfold State.waitFor; split <;> simp
    obtain ⟨v, rfl | rfl | rfl⟩ := write_of_decodeTransaction hwe hx
    · exact ⟨0x08, false, by rw [responses_of_exec_wrCmd h, hwait]⟩
    · obtain rfl := Host.Outcome.next.inj h
      exact ⟨0x10, false, congrArg _ hwait⟩
    · obtain rfl := Host.Outcome.next.inj h
      exact ⟨0x14, false, congrArg _ hwait⟩

/-- The input presents a write. -/
def HostInput.IsWrite (input : HostInput) : Prop := ∃ x : Transaction, input = .present x ∧ x.we = true

/-- Over a run that takes writes only, the observation stays as it is (R339). -/
theorem observation_of_run_writes (n : Nat) : ∀ {s t : State} {writes rest : List HostInput}, writes.length = n →
    (∀ w ∈ writes, w.IsWrite) → s.host = writes ++ rest → Host.Core.run core n s = .next t →
    t.observation = s.observation := by
  induction n with
  | zero =>
    intro s t writes rest _ _ _ h
    obtain rfl := Host.Outcome.next.inj h
    rfl
  | succ n ih =>
    intro s t writes rest hn hwrites hh h
    obtain ⟨w, writes, rfl⟩ := List.exists_cons_of_length_eq_add_one hn
    obtain ⟨⟨x, rfl, hwe⟩, htail⟩ := List.forall_mem_cons.1 hwrites
    obtain ⟨a, hstep, hrun⟩ := run_succ (M := core) h
    obtain ⟨off, e, hresp⟩ := responses_of_step_write hh hwe hstep
    have hhost : a.host = writes ++ rest := by rw [step_host hstep, hh]; rfl
    rw [ih (Nat.succ.inj hn) htail hhost hrun]
    simp [State.observation, hresp, readValueOf]

/-- The answer to a read of DOUTj (R243). -/
def doutAnswer (doutb : Vector Byte 32) (j : Fin 8) : Response :=
  .read (BitVec.ofNat 6 (0x20 + 4 * j.val)) (doutWord j doutb) false

/-- Reads of DOUT registers from an idle engine, one step each: only what stands for BUSY and the answers change. -/
theorem run_doutReads (js : List (Fin 8)) : ∀ {s : State} {rest : List HostInput}, s.phase = .idle →
    s.host = (js.map fun j => rdReg (.dout j)).map .present ++ rest →
    ∃ m, Host.Core.run core js.length s = .next { s with
      mayBusy := m, host := rest, responses := (js.map (doutAnswer s.doutb)).reverse ++ s.responses } := by
  induction js with
  | nil =>
    intro s rest _ hh
    exact ⟨s.mayBusy, by obtain rfl : s.host = rest := hh; rfl⟩
  | cons j js ih =>
    intro s rest hp hh
    have hstep := step_of_idle hp hh (decodeTransaction_doutRead j 0)
    rw [exec_doutRead] at hstep
    obtain ⟨m, hrun⟩ := ih (s := State.readDout j { s with host := _ }) (rest := rest) hp rfl
    refine ⟨m, ?_⟩
    rw [List.length_cons, Nat.add_comm, List.map_cons, List.reverse_cons, List.append_assoc]
    exact (run_add (M := core) 1 js.length (run_one (M := core) hstep)).trans hrun

/-- The words those reads add to the observation (R339). -/
theorem observation_append_doutReads {s t : State} {doutb : Vector Byte 32} {js : List (Fin 8)}
    (h : t.responses = (js.map (doutAnswer doutb)).reverse ++ s.responses) :
    t.observation = s.observation ++ js.map fun j => doutWord j doutb := by
  simp [State.observation, h, List.filterMap_map, Function.comp_def, doutAnswer, readValueOf]

end Sys2Proof.Machine
end

section
/-! The hash contract (R244, R245): the ABSORB lines, DIGEST and the eight DOUT reads, each part run from what the part before it
leaves. -/
namespace Sys2Proof.Machine

theorem assemble_append (ls ms : List AsmLine) : assemble (ls ++ ms) = assemble ls ++ assemble ms := by
  simp [assemble]

/-- The lines of the first chunk, then those of the others. -/
theorem assemble_chunkLines_cons (c : BitVec 64 × BitVec 4) (cs : List (BitVec 64 × BitVec 4)) :
    assemble (chunkLines (c :: cs)) = (dinLines c.1).map .present ++
      .present (wrReg .cmd (encodeCommand (.absorb c.2))) :: assemble (chunkLines cs) := by
  simp [assemble, chunkLines, AsmLine.expand]

theorem assemble_chunkLines_length (cs : List (BitVec 64 × BitVec 4)) :
    (assemble (chunkLines cs)).length = 3 * cs.length := by
  induction cs with
  | nil => rfl
  | cons c cs ih => simp [assemble_chunkLines_cons, dinLines, ih]; omega

/-- The lines of a chunk, and DIGEST, are writes. -/
theorem isWrite_of_mem_assemble_chunkLines (cs : List (BitVec 64 × BitVec 4)) :
    ∀ w ∈ assemble (chunkLines cs), w.IsWrite := by
  induction cs with
  | nil => nofun
  | cons c cs ih =>
    have hwr (r : Reg) (v : Word) : HostInput.IsWrite (.present (wrReg r v)) := ⟨_, rfl, rfl⟩
    simpa [assemble_chunkLines_cons, dinLines, hwr] using ih

/-- The program of R244 in its three parts: the ABSORB lines, DIGEST, and the reads of DOUT0 to DOUT7. -/
theorem assemble_hashProgram (cs : List (BitVec 64 × BitVec 4)) (rest : List HostInput) :
    assemble (chunkLines cs ++ [.command .digest, .readDigest]) ++ rest =
      assemble (chunkLines cs) ++ (assemble [.command .digest] ++
        (((List.finRange 8).map fun j => rdReg (.dout j)).map .present ++ rest)) := by
  rw [assemble_append, List.append_assoc]
  rfl

/-- The ABSORB commands of R244 one after another: each appends the bytes it takes from DIN to what the session holds. -/
theorem run_chunkLines (cs : List (BitVec 64 × BitVec 4)) : ∀ {M : List Byte} {s : State} {rest : List HostInput},
    s.Accepts M → (∀ c ∈ cs, c.2.toNat ≤ 8) → s.host = assemble (chunkLines cs) ++ rest →
    ∃ t, Host.Core.run core (3 * cs.length) s = .next t ∧ t.host = rest ∧ t.Accepts (M ++ chunkBytes cs) := by
  induction cs with
  | nil =>
    intro M s rest h _ hh
    exact ⟨s, rfl, hh, by rwa [chunkBytes, List.flatMap_nil, List.append_nil]⟩
  | cons c cs ih =>
    intro M s rest h hlen hh
    obtain ⟨hc, hcs⟩ := List.forall_mem_cons.1 hlen
    rw [assemble_chunkLines_cons, List.append_assoc] at hh
    obtain ⟨a, hdinRun, hhost, hdin, ha⟩ := run_dinLines h c.1 hh
    obtain ⟨b, habsorbRun, hhost, hb⟩ := run_absorbLine ha c.2 hc hhost
    obtain ⟨t, hrun, hhost, ht⟩ := ih hb hcs hhost
    rw [hdin, List.append_assoc] at ht
    refine ⟨t, ?_, hhost, ht⟩
    have hchunk := (run_add (M := core) 2 1 hdinRun).trans habsorbRun
    rw [List.length_cons, Nat.mul_succ, Nat.add_comm, run_add (M := core) 3 _ hchunk, hrun]

/-- The digest of a session is the hash of the bytes it holds (R192, R193). -/
theorem State.Holds.digestOf_eq {M : List Byte} {s : State} (h : s.Holds M) : digestOf s.S s.pending = keccak256 M := by
  unfold State.Holds at h
  simp only [keccak256, h]

/-- The line `digest` (R108): one step, which shows the hash of what the session holds and leaves the session. -/
theorem run_digestLine {M : List Byte} {s : State} (h : s.Accepts M) {rest : List HostInput}
    (hh : s.host = assemble [.command .digest] ++ rest) :
    ∃ t, Host.Core.run core 1 s = .next t ∧ t.host = rest ∧ t.Accepts M ∧ t.doutb = keccak256 M ∧
      t.digestTrusted = true := by
  have hstep := step_of_idle h.idle hh (decodeTransaction_wrCmd _)
  have hexec := exec_digest_of_noError (s := { s with host := rest }) h.noError
  have hword := exec_wrCmd_command _ _ { s with host := rest } decodeCommand_digest
  refine ⟨_, run_one (M := core) (hstep.trans (hword.trans hexec)), rfl, h.of_unchanged rfl rfl rfl rfl rfl,
    h.holds.digestOf_eq, ?_⟩
  show (!s.err && true) = true
  rw [h.noError]
  rfl

theorem holds_nil_reset : State.reset.Holds [] := spongeAbsorb_short _ _ _ (by decide)

end Sys2Proof.Machine

open Sys2Proof Sys2Proof.Machine

/-- Settles O46: the ABSORB lines and DIGEST are writes, after which DOUTB is the hash that the reads then show. -/
theorem hashContract : Obligations.HashContract := by
  refine ⟨holds_nil_reset, fun s t h => ?_, fun s M cs rest hp herr hM hlen hh => ?_⟩
  · obtain rfl := Host.Outcome.next.inj h
    exact holds_nil_reset.of_session rfl rfl rfl
  · rw [assemble_hashProgram] at hh
    obtain ⟨a, habsorbRun, hahost, ha⟩ := run_chunkLines cs ⟨hp, herr, hM⟩ hlen hh
    obtain ⟨b, hdigestRun, hbhost, hb, hdoutb, htrusted⟩ := run_digestLine ha hahost
    obtain ⟨m, hreadRun⟩ := run_doutReads (List.finRange 8) hb.idle hbhost
    have haobs := observation_of_run_writes _ (assemble_chunkLines_length cs) (isWrite_of_mem_assemble_chunkLines cs) hh
      habsorbRun
    have hbobs := observation_of_run_writes 1 rfl (List.forall_mem_singleton.2 ⟨_, rfl, rfl⟩) hahost hdigestRun
    have hrun := (run_add (M := core) _ 9 habsorbRun).trans ((run_add (M := core) 1 8 hdigestRun).trans hreadRun)
    refine ⟨_, hrun, rfl, hb.holds.of_session rfl rfl rfl, hdoutb, htrusted, ?_⟩
    rw [← haobs, ← hbobs, ← hdoutb]
    exact observation_append_doutReads rfl
end

section
/-! The block never stops (R280, R289): a step and a clock edge answer a next state, and what each leaves of the host's inputs
(R330). -/
namespace Sys2Proof.Machine

/-- Every step answers a next state. -/
theorem step_next (s : State) : ∃ t, step s = .next t := by
  cases hl : s.host with
  | nil => exact ⟨_, step_nil hl⟩
  | cons input rest =>
    cases input with
    | idle => exact ⟨_, step_idle hl⟩
    | rst held => exact ⟨_, step_rst hl⟩
    | present x => rw [step_present hl]; exact acceptTransaction_next x _

@[simp] theorem State.engineEdge_host (n : Nat) (s : State) : (s.engineEdge n).host = s.host := by
  rw [State.engineEdge_frame]

/-- No acceptance edge touches what the host has still to do. -/
theorem acceptEdge_host {i : Instr} {s t : State} (h : acceptEdge i s = .next t) : t.host = s.host := by
  rcases acceptEdge_cases i s t h with ⟨hx, _⟩ | ⟨_, rfl⟩ | ⟨len, _, _, _, rfl, _⟩ | ⟨_, rfl, _⟩
  · exact exec_host i s t hx
  · rfl
  · rw [State.endCommand_host, State.startAbsorb_frame]
  · rfl

/-- The acceptance edge of any transaction answers a next state, in which the host's inputs are as they were. -/
theorem acceptTransactionEdge_next (x : Transaction) (s : State) :
    ∃ t, s.acceptTransactionEdge x = .next t ∧ t.host = s.host := by
  unfold State.acceptTransactionEdge
  cases decodeTransaction x with
  | instr i =>
    obtain ⟨t, ht⟩ := acceptEdge_next i s
    exact ⟨t, ht, acceptEdge_host ht⟩
  | rejected r => exact ⟨_, rfl, rfl⟩

/-- The engine's rounds at an edge answer a next state where the acceptance did. -/
theorem engineAfter_next (n : Nat) (running : Bool) (s : State) :
    ∃ t, engineAfter n running (.next s) = .next t ∧ t.host = s.host := by
  refine ⟨_, rfl, ?_⟩
  split
  · exact s.engineEdge_host n
  · rfl

/-- Every clock edge answers a next state: it takes the first of the host's inputs or, where a transaction is held, none. -/
theorem clockEdge_next (rpc : Config.RoundsPerCycle) (s : State) :
    ∃ t, clockEdge rpc s = .next t ∧ (t.host = s.host.tail ∨ t.host = s.host) := by
  cases hl : s.host with
  | nil => exact ⟨_, clockEdge_nil rpc hl, .inr ((s.engineEdge_host _).trans hl)⟩
  | cons input rest =>
    cases input with
    | idle => exact ⟨_, clockEdge_idle rpc hl, .inl (State.engineEdge_host _ _)⟩
    | rst held => exact ⟨_, clockEdge_rst rpc hl, .inl rfl⟩
    | present x =>
      cases hr : s.ready x with
      | false => exact ⟨_, clockEdge_held rpc hl hr, .inr ((s.engineEdge_host _).trans hl)⟩
      | true =>
        obtain ⟨a, ha, hahost⟩ := acceptTransactionEdge_next x { s with host := rest }
        obtain ⟨t, ht, hthost⟩ := engineAfter_next rpc.toNat s.busy a
        rw [clockEdge_accepted rpc hl hr, ha]
        exact ⟨t, ht, .inl (hthost.trans hahost)⟩

end Sys2Proof.Machine

open Sys2Proof Sys2Proof.Machine

/-- Settles O13: every input of the host is answered, by a step and by a clock edge. -/
theorem everyStepAnswersNext : Obligations.EveryStepAnswersNext := by
  intro s
  obtain ⟨t, ht⟩ := step_next s
  exact ⟨⟨t, ht, step_host ht⟩, fun rpc => clockEdge_next rpc s⟩
end

section
/-! The two errors: a BusError is answered and nothing else (R289), and a CmdError leaves a state in which every command but
INIT is discarded (R282, R284). -/
namespace Sys2Proof.Machine

/-- A transaction with an illegal key never waits (R289). -/
theorem State.ready_of_rejected {x : Transaction} {r : Reject} (h : decodeTransaction x = .rejected r) (s : State) :
    s.ready x = true := by
  unfold State.ready; rw [h]

/-- A transaction with an illegal key is answered with its BusError (R288). -/
theorem State.acceptTransaction_of_rejected {x : Transaction} {r : Reject} (h : decodeTransaction x = .rejected r)
    (s : State) : s.acceptTransaction x = .next (s.takeBusError x) := by
  unfold State.acceptTransaction; rw [h]

/-- While ERR = 1 a rejected command is discarded (R284). -/
theorem State.rejectCommand_of_error (code : ErrorCode) {s : State} (h : s.err = true) :
    s.rejectCommand code = s.discardCommand := if_pos h

/-- While ERR = 1 every command but INIT is discarded (R284). -/
theorem exec_command_of_error {cmd : Command} (hcmd : cmd ≠ .init) {s : State} (herr : s.err = true) :
    exec cmd.toInstr s = .next s.discardCommand := by
  cases cmd with
  | nop => rfl
  | init => exact absurd rfl hcmd
  | absorb len =>
    refine congrArg Host.Outcome.next ?_
    by_cases hlen : 8 < len.toNat
    · exact (if_pos hlen).trans (State.rejectCommand_of_error .badLen herr)
    · exact (if_neg hlen).trans (if_pos herr)
  | digest => exact congrArg Host.Outcome.next (if_pos herr)

/-- While ERR = 1 every word but INIT's is discarded, legal or not (R284). -/
theorem exec_wrCmd_of_error {c : Word} (hc : c ≠ 0x00000001) {s : State} (herr : s.err = true) :
    exec (.wrCmd c) s = .next s.discardCommand := by
  cases hd : decodeCommand c with
  | error code => rw [exec_wrCmd_error hd, State.rejectCommand_of_error code herr]
  | command cmd =>
    rw [exec_wrCmd_command c cmd s hd]
    refine exec_command_of_error ?_ herr
    rintro rfl
    exact hc ((decodeCommand_eq_command_iff c .init).1 hd).2

end Sys2Proof.Machine

open Sys2Proof Sys2Proof.Machine

/-- Settles O10: the acceptance of an illegal key is its answer alone, and PHASE is not read. -/
theorem busErrorIsAnsweredAndChangesNothing : Obligations.BusErrorIsAnsweredAndChangesNothing := by
  intro s x rest r hh hx
  refine ⟨State.ready_of_rejected hx s, ?_⟩
  rw [step_present hh, State.acceptTransaction_of_rejected hx]
  rfl

/-- Settles O26: the word is rejected, and `errorCodeBits` gives the three codes. -/
theorem malformedWordRaisesCmdError : Obligations.MalformedWordRaisesCmdError := by
  intro c code s herr hc
  rw [exec_wrCmd_error hc, s.rejectCommand_of_noError code herr]
  cases code <;> rfl

/-- Settles O28: INIT leaves the error state, and any other word or term is discarded. -/
theorem errorStateDiscardsCommands : Obligations.ErrorStateDiscardsCommands := by
  intro s herr
  refine ⟨exec_wrCmd_command _ _ s decodeCommand_init, ⟨_, rfl, rfl, rfl⟩, fun c hc => exec_wrCmd_of_error hc herr, ?_⟩
  rintro i (rfl | rfl | ⟨len, rfl⟩)
  · exact exec_command_of_error (cmd := .nop) nofun herr
  · exact exec_command_of_error (cmd := .digest) nofun herr
  · exact exec_command_of_error (cmd := .absorb len) nofun herr
end

section
/-! The clocked block against the atomic machine (70_reset_and_hazards.md): what an acceptance edge leaves after the wait for
BUSY = 0 (R331), and how long a transaction is held (R332, R333, R335). -/
namespace Sys2Proof.Machine

/-- R331: from an idle engine, an instruction but a STATUS read leaves after its acceptance edge and the wait what it leaves
when it is executed whole. -/
theorem acceptEdge_waitIdle {i : Instr} {s t u : State} (hp : s.phase = .idle) (hr : s.round = 0) (hd : s.pend = [])
    (hi : i ≠ .rdStatus) (ht : acceptEdge i s = .next t) (hu : exec i s = .next u) : t.waitIdle = u := by
  rcases acceptEdge_cases i s t ht with ⟨hx, _⟩ | ⟨rfl, _⟩ | ⟨len, hlen, herr, hc, rfl, hx⟩ | ⟨herr, rfl, hx⟩
  · obtain rfl := Host.Outcome.next.inj (hx.symm.trans hu)
    exact t.waitIdle_of_idle (exec_idle_of_idle hp hx)
  · exact absurd rfl hi
  · rw [hx, exec_absorb_of_noError herr hlen, hc] at hu
    obtain rfl := Host.Outcome.next.inj hu
    rw [State.waitIdle_endCommand, s.waitIdle_startAbsorb _ hlen hc hp hr hd]
  · rw [hx, exec_digest_of_noError herr] at hu
    obtain rfl := Host.Outcome.next.inj hu
    rw [State.waitIdle_endCommand, s.waitIdle_startDigest hp hr]

/-- With the engine idle every transaction is ready (R72). -/
theorem State.ready_of_idle (x : Transaction) {s : State} (hp : s.phase = .idle) : s.ready x = true := by
  by_contra hr
  have hbusy := State.busy_of_not_ready (Bool.eq_false_of_not_eq_true hr)
  exact (s.busy_eq_true_iff).1 hbusy hp

@[simp] theorem State.engineEdge_responses (n : Nat) (s : State) : (s.engineEdge n).responses = s.responses := by
  rw [State.engineEdge_frame]

/-- A held transaction is still held after an edge that is not the engine's last (R332, R333). -/
theorem State.ready_engineEdge_running {x : Transaction} {n : Nat} {s : State} (hr : s.ready x = false)
    (hround : s.round.val + n < 24) : (s.engineEdge n).ready x = false := by
  obtain ⟨hbusy, hwaits⟩ := (s.ready_eq_false_iff x).1 hr
  rw [State.busy_eq_true_iff] at hbusy
  refine (State.ready_eq_false_iff x _).2 ⟨?_, hwaits⟩
  rw [State.busy_eq_true_iff, (State.engineEdge_running hbusy hround).1]
  exact hbusy

/-- When `m` edges are enough for the rounds left, a held transaction sees the engine idle within `m` edges (R335). -/
theorem clockEdges_held_waitIdle {rpc : Config.RoundsPerCycle} {x : Transaction} {rest : List HostInput} (m : Nat) :
    ∀ {s : State}, s.host = .present x :: rest → s.ready x = false → 24 ≤ s.round.val + m * rpc.toNat →
      ∃ k ≤ m, clockEdges rpc k s = .next s.waitIdle := by
  induction m with
  | zero => intro s _ _ hm; have := s.round.isLt; omega
  | succ m ih =>
    intro s hh hr hm
    have hedge : ∀ k, clockEdges rpc (k + 1) s = clockEdges rpc k (s.engineEdge rpc.toNat) := fun k => by
      rw [clockEdges, clockEdge_held rpc hh hr]
    by_cases hround : s.round.val + rpc.toNat < 24
    · have hnext := (State.engineEdge_running ((s.busy_eq_true_iff).1 (State.busy_of_not_ready hr)) hround).2
      obtain ⟨k, hk, hrun⟩ := ih ((s.engineEdge_host _).trans hh) (State.ready_engineEdge_running hr hround)
        (by rw [hnext, Nat.add_assoc, Nat.add_comm rpc.toNat, ← Nat.succ_mul]; exact hm)
      exact ⟨k + 1, Nat.succ_le_succ hk, by rw [hedge, hrun, State.waitIdle_engineEdge]⟩
    · exact ⟨1, Nat.le_add_left 1 m, by rw [hedge, State.engineEdge_last _ _ hround]; rfl⟩

end Sys2Proof.Machine

open Sys2Proof Sys2Proof.Machine

/-- Settles O53: the invariant settles the engine, and from a settled engine every edge is a step or a stutter. -/
theorem clockedBlockRefinesAtomicMachine : Obligations.ClockedBlockRefinesAtomicMachine := by
  intro rpc s hinv
  obtain ⟨t, ht, _⟩ := clockEdge_next rpc s
  exact ⟨t, ht, clockEdge_refines_step (.of_inv hinv) ht⟩

/-- Settles O52: a permutation that an acceptance edge starts ends with the wait; a STATUS read is alike in the view. -/
theorem acceptThenWaitIsExec : Obligations.AcceptThenWaitIsExec := by
  intro i s hp hr hd
  obtain ⟨t, ht⟩ := acceptEdge_next i s
  obtain ⟨u, hu⟩ := exec_next i s
  have hs : s.Settles := (State.settles_iff_of_idle hp).2 ⟨hr, hd⟩
  exact ⟨t, u, ht, hu, fun hi => acceptEdge_waitIdle hp hr hd hi ht hu, acceptEdge_sameView hs (.inl hp) ht hu⟩

/-- Settles O55: each edge that finds the transaction held applies its rounds, and 24 / ROUNDS_PER_CYCLE edges apply 24. -/
theorem stalledTransactionIsAccepted : Obligations.StalledTransactionIsAccepted := by
  intro rpc s x rest hh hr
  have hwhole : 24 ≤ s.round.val + 24 / rpc.toNat * rpc.toNat := by
    rw [Nat.div_mul_cancel (roundsPerCycle_dvd rpc)]; exact Nat.le_add_left 24 _
  obtain ⟨k, hk, hrun⟩ := clockEdges_held_waitIdle _ hh hr hwhole
  exact ⟨clockEdge_held rpc hh hr, s.engineEdge_host _, s.engineEdge_responses _,
    k, s.waitIdle, hk, hrun, rfl, State.ready_of_idle x s.waitIdle_phase, s.waitIdle_host⟩
end

section
/-! What an instruction leaves of MAYBUSY (R338), the wait before an instruction (R332 to R334), reset edges (R320, R321) and
writes of DIN while the engine runs (R336). -/
namespace Sys2Proof.Machine

/-- Whether an accepted command starts a permutation: a DIGEST, or an ABSORB that completes a block, while ERR = 0 (R331). -/
def State.startsPermutation (cmd : Command) (s : State) : Bool :=
  match cmd with
  | .nop => false
  | .init => false
  | .absorb len => !s.err && s.completesBlock len.toNat
  | .digest => !s.err

/-- MAYBUSY after a command, by its own word or in a CMD write, says whether it started a permutation (R338). -/
theorem exec_command_mayBusy {i : Instr} {c : Word} {cmd : Command} (hc : decodeCommand c = .command cmd) {s t : State}
    (hi : i = cmd.toInstr ∨ i = .wrCmd c) (h : exec i s = .next t) : t.mayBusy = s.startsPermutation cmd := by
  have hcmd : exec cmd.toInstr s = .next t := by
    rcases hi with rfl | rfl
    · exact h
    · exact (exec_wrCmd_command c cmd s hc).symm.trans h
  rcases command_cases c cmd hc s t hcmd with ⟨_, rfl, rfl⟩ | ⟨_, rfl, rfl⟩ |
    ⟨len, _, _, rfl, ⟨herr, rfl⟩ | ⟨herr, rfl⟩⟩ | ⟨_, rfl, ⟨herr, rfl⟩ | ⟨herr, rfl⟩⟩
  · rfl
  · rfl
  all_goals simp [State.startsPermutation, herr]

/-- A CMD write of any word but a DIGEST's or an ABSORB's leaves MAYBUSY 0 (R338). -/
theorem exec_wrCmd_mayBusy_of_ne {c : Word} (hdig : c ≠ 0x00000003)
    (habs : ∀ len, decodeCommand c ≠ .command (.absorb len)) {s t : State} (h : exec (.wrCmd c) s = .next t) :
    t.mayBusy = false := by
  cases hc : decodeCommand c with
  | error code =>
    obtain rfl := Host.Outcome.next.inj ((exec_wrCmd_error hc s).symm.trans h)
    rw [State.rejectCommand_eq]
  | command cmd =>
    rw [exec_command_mayBusy hc (.inr rfl) h]
    cases cmd with
    | nop => rfl
    | init => rfl
    | absorb len => exact absurd hc (habs len)
    | digest => exact absurd (decodeCommand_eq_digest hc) hdig

theorem State.waitFor_of_waits {i : Instr} (hi : waitsForIdle i = true) (s : State) : s.waitFor i = s.waitIdle := if_pos hi

/-- A transaction that decodes is executed after its wait (R330). -/
theorem State.acceptTransaction_of_instr {x : Transaction} {i : Instr} (h : decodeTransaction x = .instr i) (s : State) :
    s.acceptTransaction x = exec i (s.waitFor i) := by
  unfold State.acceptTransaction; rw [h]

/-- Among the accesses that decode, those that wait are told by we and the offset alone: the keys are aligned (R106). -/
theorem waitsForIdle_iff_of_instr {x : Transaction} {i : Instr} (h : decodeTransaction x = .instr i) :
    waitsForIdle i = true ↔ (x.we = true ∧ x.addr = 0x08) ∨ (x.we = false ∧ 0x20 ≤ x.addr.toNat) := by
  have hi : waitsForIdle i = true ↔ ∃ j, decodeTransaction x = .instr j ∧ waitsForIdle j = true := by simp [h]
  have hkey : (if x.we then 64 else 0) + x.addr.toNat ∈ legalKeys :=
    (decodeTransaction_isInstr_iff x).1 ⟨i, h⟩
  have halign : x.addr.toNat % 4 = 0 := by
    simp only [legalKeys, List.mem_cons, List.not_mem_nil, or_false] at hkey
    split at hkey <;> omega
  rw [hi, waitsForIdle_iff_cmdWrite_or_doutRead, ← BitVec.toNat_inj]
  simp [halign]

/-- A write of DIN goes through the wait: the engine neither reads nor writes it (R336). -/
theorem State.waitIdle_withDin (d : BitVec 64) (s : State) :
    ({ s with din := d } : State).waitIdle = { s.waitIdle with din := d } := by
  refine (s.waitIdle_outside s.bufLen d s.digestValid s.err s.errcode s.mayBusy s.host s.draws s.responses).trans ?_
  simp

end Sys2Proof.Machine

open Sys2Proof Sys2Proof.Machine

/-- Settles O33: the words of DIGEST and ABSORB, the other CMD writes, and the accesses, each of which answers at once. -/
theorem mayBusyMoves : Obligations.MayBusyMoves := by
  intro i s t h
  refine ⟨fun hi => ?_, fun len hlen hi => ?_, ?_, ?_, fun hi => ?_, ?_⟩
  · exact exec_command_mayBusy decodeCommand_digest hi h
  · exact exec_command_mayBusy (decodeCommand_absorb len hlen) hi h
  · rintro (rfl | rfl)
    · exact exec_command_mayBusy decodeCommand_nop (.inl rfl) h
    · exact exec_command_mayBusy decodeCommand_init (.inl rfl) h
  · rintro c rfl hdig habs
    exact exec_wrCmd_mayBusy_of_ne hdig habs h
  · simp only [List.mem_cons, List.not_mem_nil, or_false] at hi
    rcases hi with rfl | rfl | rfl | rfl | rfl | rfl | rfl | rfl <;> exact Host.Outcome.next.inj h ▸ rfl
  · simp only [List.mem_cons, List.not_mem_nil, or_false]
    rintro ((rfl | rfl | rfl | rfl) | ⟨v, rfl | rfl⟩) <;> exact Host.Outcome.next.inj h ▸ rfl

/-- Settles O8: the CMD writes and the DOUT reads are the accesses that wait, and after the wait the engine is idle. -/
theorem stepRunsTheDecodedInstruction : Obligations.StepRunsTheDecodedInstruction := by
  intro s x rest i hh hx
  rw [step_present hh, State.acceptTransaction_of_instr hx, ← waitsForIdle_iff_of_instr hx]
  refine ⟨fun hi => ⟨?_, ?_⟩, fun hi => ?_⟩
  · rw [State.waitFor_of_waits hi]
  · exact (State.busy_eq_false_iff _).2 (State.waitIdle_phase _)
  · rw [State.StartsAtOnce.waitFor_eq (.inr (Bool.eq_false_of_not_eq_true hi))]

/-- Settles O12: a reset edge is the same in both machines, and the reset state is idle. -/
theorem resetEdgeResetsTheBlock : Obligations.ResetEdgeResetsTheBlock := by
  intro s held rest hh
  refine ⟨s.readyPort_rst held, s.accepted_eq _, step_rst hh, fun rpc => clockEdge_rst rpc hh, fun x => ?_⟩
  rw [State.accepted_eq]
  exact if_pos (State.ready_of_idle x rfl)

/-- Settles O56: what the wait leaves does not depend on DIN, nor on the answer to the write. -/
theorem dinMayBeWrittenWhileBusy : Obligations.DinMayBeWrittenWhileBusy := by
  intro v s
  have hwait : ∀ (d : BitVec 64) (r : Response), (({ s with din := d } : State).respond r).waitIdle =
      { s.waitIdle with din := d, responses := r :: s.responses } := fun d r => by
    rw [State.waitIdle_respond, State.waitIdle_withDin, State.respond, s.waitIdle_responses]
  exact ⟨⟨_, rfl, hwait (dinOf (dinHi s.din) v) (.write 0x10 false)⟩,
    ⟨_, rfl, hwait (dinOf v (dinLo s.din)) (.write 0x14 false)⟩⟩
end
